-- ==== Sys2Proof/Word.lean ====
section
/-! DEFINITION. The word types of the engine (spec/00_scope.md R7, R8, R9). -/

namespace Sys2Proof

/-- A register of the round pipeline: WORD = 32 bits (R7, R110). `+` on it is the spec's `+32`, `&&&`, `|||`, `^^^`
and `~~~` are AND, OR, XOR and the 32-bit NOT (R9). -/
abbrev Word := BitVec 32

/-- A byte: a value of width 8 (R10). -/
abbrev Byte := BitVec 8

/-- One command word CW of exactly 208 bits (R60, CMDBITS of R7). -/
abbrev CommandWord := BitVec 208

end Sys2Proof
end

