-- ==== Sys2Proof/Syntax.lean ====
section
/-! DEFINITION. The commands of the engine, one constructor per row of spec/opcode_table.json, and the lines of the
assembler they are written in (spec/30_encoding.md R63, R68). -/

namespace Sys2Proof

/-- The five host commands (R63). Every operand has exactly the width of its field of format C (R61), so every value of
this type is a command of the hardware. The micro-operations have no encoding and are no commands (R67). -/
inductive Instr where
  /-- `NOP`, op 0x00 (R80). -/
  | nop
  /-- `INIT`, op 0x01 (R81). -/
  | init
  /-- `RESUME`, op 0x02: the 128-bit `tag` field, whose byte j is bits 8j+7 : 8j (R62, R147), and the 64-bit `count`
  (R82). -/
  | resume (tag : BitVec 128) (count : BitVec 64)
  /-- `ABSORB`, op 0x03: one message byte (R83). -/
  | absorb (byte : Byte)
  /-- `FINALIZE`, op 0x04 (R134). -/
  | finalize
  deriving DecidableEq, Repr

/-- The operand of an `ABSORB` line: "0x00..0xFF, or a decimal 0..255, or a quoted ASCII character" (R68). Hexadecimal
and decimal denote the same number. -/
inductive AsmByte where
  | number (n : Nat)
  | quoted (c : Char)
  deriving DecidableEq, Repr

/-- One line of the assembler, its operands as they are written (R68): the 32 hexadecimal digits of `tag=` and the
unsigned integer of `count=` are not yet field values, and may be ill formed. -/
inductive AsmLine where
  | nop
  | init
  | resume (tag : List Char) (count : Nat)
  | absorb (byte : AsmByte)
  | finalize
  deriving DecidableEq, Repr

/-- A line of a listing with its repeat count: "A repeat count may follow a command as `×n` in listings, meaning n
copies of the line" (R68). -/
structure AsmRow where
  line  : AsmLine
  times : Nat := 1
  deriving DecidableEq, Repr

end Sys2Proof
end

