-- ==== Sys2Proof/WellFormed.lean ====
section
/-! DEFINITION. Which assembler lines are well formed (spec/30_encoding.md R68). A command (`Instr`) needs no check: the
widths of its operands are its types (R61), and R62 lets every value of every operand through. What can be ill formed is
a written line: its operands must fit the fields they go into. -/

namespace Sys2Proof

/-- The alphabet of the display form, in the order of the digit values (R149). -/
def hexAlphabet : List Char :=
  ['0', '1', '2', '3', '4', '5', '6', '7', '8', '9', 'a', 'b', 'c', 'd', 'e', 'f']

/-- `tag=<32 hexadecimal digits>`: exactly 32 digits, "the digest's display form" (R68, R149). -/
def tagDigitsWellFormed (tag : List Char) : Bool :=
  tag.length == 32 && tag.all fun c => hexAlphabet.contains c

/-- `count=<unsigned integer>` must fit the 64-bit field (R62). -/
def countWellFormed (count : Nat) : Bool :=
  decide (count < 2 ^ 64)

/-- The byte of an `ABSORB` line is 0x00..0xFF, or an ASCII character (R68). -/
def AsmByte.wellFormed : AsmByte → Bool
  | .number n => decide (n < 256)
  | .quoted c => decide (c.toNat < 128)

/-- The well-formed lines of R68. -/
def AsmLine.wellFormed : AsmLine → Bool
  | .nop => true
  | .init => true
  | .resume tag count => tagDigitsWellFormed tag && countWellFormed count
  | .absorb b => b.wellFormed
  | .finalize => true

end Sys2Proof
end

