-- ==== Sys2Proof/Machine/Operands.lean ====
section
/-! DEFINITION. The notation of spec/00_scope.md section 5: the operators on words (R9), the little-endian conversions
between bytes and words (R11), in which every operand of the engine is assembled (R41), and the hexadecimal display
form (spec/43_serializer.md R149). -/

namespace Sys2Proof.Machine

/-- `rotl32(x, s)`: `((x << s) mod 2^32) OR (x >> (32 − s))` for 0 < s < 32, and x for s = 0 (R9, D25). The hardware
uses s in 4..23 only (R102); what the formula gives for s ≥ 32 is used by no rule (log entry 9). -/
def rotl32 (x : Word) (s : Nat) : Word :=
  if s = 0 then x else (x <<< s) ||| (x >>> (32 - s))

/-- `le32(b0, b1, b2, b3) = b0 + 2^8·b1 + 2^16·b2 + 2^24·b3` (R11). -/
def le32 (b0 b1 b2 b3 : Byte) : Word :=
  BitVec.ofNat 32 (b0.toNat + 2 ^ 8 * b1.toNat + 2 ^ 16 * b2.toNat + 2 ^ 24 * b3.toNat)

/-- The number `sum over j of t[j]·2^(8j)` of a byte sequence (R11, R13). -/
def leSum : List Byte → Nat
  | [] => 0
  | b :: t => b.toNat + 2 ^ 8 * leSum t

/-- `le128(t)`, the 128-bit number of a 16-byte sequence (R11). -/
def le128 (t : List Byte) : BitVec 128 :=
  BitVec.ofNat 128 (leSum t)

/-- The n lowest bytes of a value, least significant first: byte j is bits 8j+7 : 8j (R11, R147). -/
def bytesLE {w : Nat} (n : Nat) (v : BitVec w) : List Byte :=
  (List.range n).map fun j => v.extractLsb' (8 * j) 8

/-- `bytes32(w) = [w[7:0], w[15:8], w[23:16], w[31:24]]` (R11). -/
def bytes32 (w : Word) : List Byte :=
  bytesLE 4 w

/-- `bytes64(n)`, eight bytes, least significant first (R11). -/
def bytes64 (n : BitVec 64) : List Byte :=
  bytesLE 8 n

/-- `bytes128(v)`, the inverse of `le128` (R11). -/
def bytes128 (v : BitVec 128) : List Byte :=
  bytesLE 16 v

/-- `zeros(n)` is n bytes of 0x00 (R10). -/
def zeros (n : Nat) : List Byte :=
  List.replicate n 0#8

/-- The character of one nibble (R149). -/
def hexChar (n : BitVec 4) : Char :=
  hexAlphabet.getD n.toNat '0'

/-- `hexstr(t)`: "32 lowercase hexadecimal characters, two per byte, most-significant nibble first within each byte,
bytes in digest order (not reversed)" (R149). -/
def hexstr (t : List Byte) : List Char :=
  t.flatMap fun b => [hexChar (b.extractLsb' 4 4), hexChar (b.extractLsb' 0 4)]

/-- The nibble a hexadecimal digit stands for (R149); a character outside the alphabet is refused before this is asked
(`tagDigitsWellFormed`). -/
def hexNibble (c : Char) : BitVec 4 :=
  BitVec.ofNat 4 (hexAlphabet.idxOf c)

/-- The bytes of a display form, "two digits per byte, byte 0 first" (R68, R149). -/
def unhex : List Char → List Byte
  | hi :: lo :: rest => (hexNibble hi ++ hexNibble lo) :: unhex rest
  | _ => []

end Sys2Proof.Machine
end

