-- ==== Sys2Proof/Decode.lean ====
section
/-! DEFINITION. Command encoding (spec/30_encoding.md): format C, the opcode map, the total decoder, the encoder that
writes canonical words, and the assembler. -/

namespace Sys2Proof

/-- `op = CW[7:0]` (R61, R63). -/
def CommandWord.op (cw : CommandWord) : Byte :=
  cw.extractLsb' 0 8

/-- `byte = CW[15:8]` (R61, R62). -/
def CommandWord.byte (cw : CommandWord) : Byte :=
  cw.extractLsb' 8 8

/-- `CW[143:16] = le128(t)`, the `tag` field (R61, R62). -/
def CommandWord.tag (cw : CommandWord) : BitVec 128 :=
  cw.extractLsb' 16 128

/-- `count = CW[207:144]` (R61, R62). -/
def CommandWord.count (cw : CommandWord) : BitVec 64 :=
  cw.extractLsb' 144 64

/-- The command word is the concatenation `cmd_count ‖ cmd_tag ‖ cmd_byte ‖ cmd_op` with `cmd_op` in the low bits
(R61). -/
def commandWord (count : BitVec 64) (tag : BitVec 128) (byte : Byte) (op : Byte) : CommandWord :=
  count ++ tag ++ byte ++ op

/-- The opcode of a command (R63). -/
def Instr.opcode : Instr → Byte
  | .nop => 0x00
  | .init => 0x01
  | .resume _ _ => 0x02
  | .absorb _ => 0x03
  | .finalize => 0x04

/-- What the decoder answers: one of the five commands, or "illegal" with the reserved opcode it met (R65: "every one
of the 2^208 command words is either one of the five commands or illegal"; U4). -/
inductive Decoded where
  | command (i : Instr)
  | illegal (op : Byte)
  deriving DecidableEq, Repr

/-- "read `op`; select the row; read the operands the row names" (R63). The mask is 0xFF for every row, so the fields a
row does not name are ignored (R64); 0x05 to 0xFF are illegal (R65). -/
def decode (cw : CommandWord) : Decoded :=
  if cw.op = 0x00 then .command .nop
  else if cw.op = 0x01 then .command .init
  else if cw.op = 0x02 then .command (.resume cw.tag cw.count)
  else if cw.op = 0x03 then .command (.absorb cw.byte)
  else if cw.op = 0x04 then .command .finalize
  else .illegal cw.op

/-- The canonical encoding: unused fields are zero (R64). -/
def encode (i : Instr) : CommandWord :=
  match i with
  | .nop => commandWord 0 0 0 i.opcode
  | .init => commandWord 0 0 0 i.opcode
  | .resume tag count => commandWord count tag 0 i.opcode
  | .absorb b => commandWord 0 0 b i.opcode
  | .finalize => commandWord 0 0 0 i.opcode

/-- The value of an `ABSORB` operand (R68). -/
def AsmByte.value : AsmByte → Byte
  | .number n => BitVec.ofNat 8 n
  | .quoted c => BitVec.ofNat 8 c.toNat

/-- The command a line stands for; none for a line that is not well formed (R68). -/
def AsmLine.toInstr (l : AsmLine) : Option Instr :=
  if l.wellFormed then
    match l with
    | .nop => some .nop
    | .init => some .init
    | .resume tag count => some (.resume (Machine.le128 (Machine.unhex tag)) (BitVec.ofNat 64 count))
    | .absorb b => some (.absorb b.value)
    | .finalize => some .finalize
  else none

/-- The command words of a listing: each line in canonical encoding, as many times as its repeat count says (R64, R68);
none when some line is ill formed. -/
def assemble : List AsmRow → Option (List CommandWord)
  | [] => some []
  | r :: rows =>
    match r.line.toInstr, assemble rows with
    | some i, some cws => some (List.replicate r.times (encode i) ++ cws)
    | _, _ => none

/-- The instruction the decoder reads from an instruction whose bits are w: one command word is the whole instruction
(R60), so bit k of w is bit k of CW, and bits above nbits are 0. None for a word longer than CW or an illegal one. -/
def decodeTableWord (nbits w : Nat) : Option Instr :=
  if nbits ≤ 208 then
    match decode (BitVec.ofNat 208 (w % 2 ^ nbits)) with
    | .command i => some i
    | .illegal _ => none
  else none

end Sys2Proof
end

