-- ==== Sys2Proof/Config.lean ====
section
/-! DEFINITION. The free values: what the spec leaves unspecified although the machine goes on. The spec has no
implementation parameter (R7: "None is left as an argument of the model"), so nothing else stands here. -/

namespace Sys2Proof

/-- FREE VALUE. What a hidden working register a, b, c or d holds once a COMPRESS is over: "Their value outside
COMPRESS is unspecified and no rule reads it" (R24; U5 of spec/93_implementation_defined.md, treatment `any value`).
Applied to the counter `State.fresh`; it has no body, so nothing can be proved of its values. Log entry 3. -/
opaque Config.freeWord : Nat → Word

/-- FREE VALUE. What the hidden step counter i holds once a COMPRESS is over: "Between commands i holds no meaningful
value" (R27). Applied to the counter `State.fresh`. Log entry 3. -/
opaque Config.freeStepNo : Nat → BitVec 6

end Sys2Proof
end

