-- ==== Sys2Proof/Machine/Memory.lean ====
section
/-! DEFINITION. BUF, the one memory of the engine that is written (spec/20_memory.md R40): 64 bytes, written one byte at
a time and read four bytes at a time, little-endian (R41, R42). -/

namespace Sys2Proof.Machine

/-- The block buffer as a list of (address, byte) pairs in ONE canonical form (`Memory.wf`): addresses strictly rising,
each below 64, and no entry equal to what an unlisted address reads as. -/
abbrev Memory := List Host.Cell

/-- What an address nothing has written reads as. "The reset value of every BUF byte is unspecified" (R28): DESIGN
CHOICE 0x00, log entry 1. No rule reads such a byte. -/
def unwrittenByte : Byte :=
  0x00

/-- `BUF[a]`: the byte listed for the address, else the unwritten byte. A read has no side effect (R45). -/
def Memory.readByte : Memory → Nat → Byte
  | [], _ => unwrittenByte
  | (k, b) :: m, a => if k = a then b else Memory.readByte m a

/-- `MemRead(BUF, addr, 4)`: the number `sum of BUF[addr + k]·2^(8k)` (R13, R42, R103). -/
def Memory.readWord (m : Memory) (addr : Nat) : Word :=
  le32 (m.readByte addr) (m.readByte (addr + 1)) (m.readByte (addr + 2)) (m.readByte (addr + 3))

/-- The memory with an address no longer listed. -/
def Memory.erase (m : Memory) (a : Nat) : Memory :=
  m.filter fun c => c.1 ≠ a

/-- The memory with a pair put where its address belongs, among rising addresses that do not hold it. -/
def Memory.insertCell : Memory → Nat → Byte → Memory
  | [], a, v => [(a, v)]
  | (k, b) :: m, a, v => if a < k then (a, v) :: (k, b) :: m else (k, b) :: Memory.insertCell m a v

/-- `MemWrite(BUF, addr, 1, v)`, the only write there is (R13). Writing what an unlisted address reads as removes the
entry, so that equal memories are equal lists. -/
def Memory.writeByte (m : Memory) (addr : Nat) (v : Byte) : Memory :=
  if v = unwrittenByte then m.erase addr else (m.erase addr).insertCell addr v

/-- The bytes `BUF[0..n)` in address order (R10, R28). -/
def Memory.prefixBytes (m : Memory) (n : Nat) : List Byte :=
  (List.range n).map m.readByte

/-- The canonical form: strictly rising addresses inside the 64 cells of R40, none listed at the unwritten value. -/
def Memory.wf (m : Memory) : Bool :=
  decide (m.Pairwise fun x y => x.1 < y.1) && m.all fun c => decide (c.1 < 64) && decide (c.2 ≠ unwrittenByte)

end Sys2Proof.Machine
end

