-- ==== Sys2Proof/Machine/Registers.lean ====
section
/-! DEFINITION. The register files: four words, used for the chaining state H and for the working registers, and the
hidden registers (spec/10_state.md R21, R24, R27). -/

namespace Sys2Proof.Machine

/-- Four words of 32 bits, named as the source names them: "four 32-bit words (A, B, C, D)". As the chaining state,
H[0] = a, H[1] = b, H[2] = c, H[3] = d (R21); as the working registers, a, b, c, d themselves (R24). The two files are
separate storage (spec/90_conflicts.md C7). -/
structure Words4 where
  a : Word
  b : Word
  c : Word
  d : Word
  deriving DecidableEq, Repr

/-- `H[k]` for k = 0, 1, 2, 3 (R12, R21). -/
def Words4.word (h : Words4) (k : Fin 4) : Word :=
  match k with
  | 0 => h.a
  | 1 => h.b
  | 2 => h.c
  | 3 => h.d

/-- Lane by lane addition mod 2^32: "The four additions are independent lanes with no carry between words" (R108,
R111). -/
def Words4.addLanes (h w : Words4) : Words4 :=
  ⟨h.a + w.a, h.b + w.b, h.c + w.c, h.d + w.d⟩

/-- The hidden registers: the working registers a, b, c, d (R24) and the step counter i, 6 bits (R27). They are live only
inside COMPRESS (R20, R35). -/
structure Hidden where
  work : Words4
  stepNo : BitVec 6
  deriving DecidableEq, Repr

end Sys2Proof.Machine
end

