-- ==== Sys2Proof/Machine/Tables.lean ====
section
/-! DEFINITION. The constants: IV (spec/10_state.md R22), K and S (spec/41_compress.md R101, R102). They are fixed data,
no state (R36); the literals are the definition, "the formula is a check, not the rule" (R101). -/

namespace Sys2Proof.Machine

/-- IV, the fresh value of H (R22). -/
def iv : Words4 :=
  { a := 0x67452301, b := 0xEFCDAB89, c := 0x98BADCFE, d := 0x10325476 }

/-- K[0..15] (R101, round 0). -/
def kRound0 : List Word :=
  [0xD76AA478, 0xE8C7B756, 0x242070DB, 0xC1BDCEEE,
   0xF57C0FAF, 0x4787C62A, 0xA8304613, 0xFD469501,
   0x698098D8, 0x8B44F7AF, 0xFFFF5BB1, 0x895CD7BE,
   0x6B901122, 0xFD987193, 0xA679438E, 0x49B40821]

/-- K[16..31] (R101, round 1). -/
def kRound1 : List Word :=
  [0xF61E2562, 0xC040B340, 0x265E5A51, 0xE9B6C7AA,
   0xD62F105D, 0x02441453, 0xD8A1E681, 0xE7D3FBC8,
   0x21E1CDE6, 0xC33707D6, 0xF4D50D87, 0x455A14ED,
   0xA9E3E905, 0xFCEFA3F8, 0x676F02D9, 0x8D2A4C8A]

/-- K[32..47] (R101, round 2). -/
def kRound2 : List Word :=
  [0xFFFA3942, 0x8771F681, 0x6D9D6122, 0xFDE5380C,
   0xA4BEEA44, 0x4BDECFA9, 0xF6BB4B60, 0xBEBFBC70,
   0x289B7EC6, 0xEAA127FA, 0xD4EF3085, 0x04881D05,
   0xD9D4D039, 0xE6DB99E5, 0x1FA27CF8, 0xC4AC5665]

/-- K[48..63] (R101, round 3). -/
def kRound3 : List Word :=
  [0xF4292244, 0x432AFF97, 0xAB9423A7, 0xFC93A039,
   0x655B59C3, 0x8F0CCC92, 0xFFEFF47D, 0x85845DD1,
   0x6FA87E4F, 0xFE2CE6E0, 0xA3014314, 0x4E0811A1,
   0xF7537E82, 0xBD3AF235, 0x2AD7D2BB, 0xEB86D391]

/-- The table K of 64 constants (R101). -/
def kTable : List Word :=
  kRound0 ++ kRound1 ++ kRound2 ++ kRound3

/-- `K[i]`, 0 ≤ i ≤ 63 (R13, R44, R101). -/
def kConst (i : Nat) : Word :=
  kTable.getD i 0

/-- The table T of R102: the four rotation amounts of each round. -/
def rotationTable : List (List Nat) :=
  [[7, 12, 17, 22],
   [5, 9, 14, 20],
   [4, 11, 16, 23],
   [6, 10, 15, 21]]

/-- `S[i] = T[i div 16][i mod 4]` (R102). -/
def rotAmount (i : Nat) : Nat :=
  (rotationTable.getD (i / 16) []).getD (i % 4) 0

end Sys2Proof.Machine
end

