-- ==== Sys2Proof/Machine/State.lean ====
section
/-! DEFINITION. The state of one engine instance, complete (spec/10_state.md R20), the reasons a step could stop, and the
state after reset (R38). -/

namespace Sys2Proof.Machine

/-- PHASE, 1 bit: ACTIVE = 0, DONE = 1 (R31). -/
inductive Phase where
  /-- ABSORB and FINALIZE are accepted. -/
  | active
  /-- FINALIZE has run and `digest_out` is the digest. -/
  | done
  deriving DecidableEq, Repr

/-- The two faults of the hardware (R178). The engine records them and goes on (R177), so neither ends a step. -/
inductive FaultCause where
  /-- Cause 1: ABSORB or FINALIZE in phase DONE (R176). -/
  | useAfterFinalize
  /-- Cause 2: a reserved opcode, in either phase (R175). -/
  | illegalCommand
  deriving DecidableEq, Repr

/-- What the host does to the engine between commands and in its own order (R15, R195). Sampling an output is no event:
it changes nothing (R33). -/
inductive HostEvent where
  /-- Present one command word. -/
  | command (cw : CommandWord)
  /-- Raise reset. -/
  | reset
  deriving DecidableEq, Repr

/-- The state of R20, field by field, and two fields of the model's own: `fresh`, the counter behind the free values
(log entry 3), and `host`, the events the host has still to present (log entry 4). -/
structure State where
  /-- H[0..3], the chaining state (R21). -/
  h : Words4
  /-- BUF[0..63], the block buffer (R28). -/
  buf : Memory
  /-- BLEN, the number of pending bytes, 6 bits (R29). -/
  blen : BitVec 6
  /-- COUNT, the message bytes ever submitted, 64 bits (R30). -/
  count : BitVec 64
  /-- PHASE (R31). -/
  phase : Phase
  /-- ERR, 1 bit (R32). -/
  err : Bool
  /-- CAUSE, 2 bits (R32, R178). -/
  cause : BitVec 2
  /-- The hidden registers a, b, c, d and i (R24, R27). -/
  hidden : Hidden
  /-- The model's counter: the next free value to hand out. -/
  fresh : Nat
  /-- The model's input: the host's events still to come, oldest first. -/
  host : List HostEvent
  deriving DecidableEq, Repr

/-- The reasons for which a step stops with a fault: THERE ARE NONE. The two faults of the hardware are recorded in ERR
and CAUSE and the engine goes on (R177), no memory access can fault (R44) and no arithmetic can (R110); "There are no
other faults" (R179). Nothing raises a value of this type, so the question of safe or unsafe does not arise. -/
inductive Fault : Type
  deriving DecidableEq, Repr

/-- The reasons for which an instruction is refused. -/
inductive Refusal where
  /-- Answered by an arm of `exec` whose instruction has no meaning yet, and by nothing else; no arm answers it. Safe: the
  model stops where the hardware goes on. -/
  | notModelled (mnemonic : String)
  deriving DecidableEq, Repr

/-- The engine right after reset (R38, R195): H = IV, BLEN = 0, COUNT = 0, PHASE = ACTIVE, ERR = 0, CAUSE = 0. The spec
gives BUF, a, b, c, d and i no value (DESIGN CHOICE: nothing listed, log entry 1, and zeros, log entry 2); `fresh` and
`host` are the model's (DESIGN CHOICE: 0 and no event, log entries 3 and 4). -/
def State.reset : State :=
  { h := iv
    buf := []
    blen := 0
    count := 0
    phase := .active
    err := false
    cause := 0
    hidden := ⟨⟨0, 0, 0, 0⟩, 0⟩
    fresh := 0
    host := [] }

end Sys2Proof.Machine
end

