-- ==== Sys2Proof/Machine/Flags.lean ====
section
/-! DEFINITION. The flags and the status value: what each of PHASE, ERR and CAUSE reads as, and the one way ERR and CAUSE
are written (spec/10_state.md R31, R32, R33; spec/60_exceptions.md R177, R178). The arithmetic of the engine sets no flag
(R110). -/

namespace Sys2Proof.Machine

/-- The output `done` is PHASE: ACTIVE = 0, DONE = 1 (R31, R33). -/
def Phase.bit : Phase → BitVec 1
  | .active => 0
  | .done => 1

/-- The code a fault leaves in CAUSE (R178). -/
def FaultCause.code : FaultCause → BitVec 2
  | .useAfterFinalize => 1
  | .illegalCommand => 2

/-- The output `done`, 1 bit (R33). -/
def doneOut (s : State) : BitVec 1 :=
  s.phase.bit

/-- The output `err`, 1 bit (R33). -/
def errOut (s : State) : BitVec 1 :=
  BitVec.ofBool s.err

/-- The output `cause`, 2 bits (R33). -/
def causeOut (s : State) : BitVec 2 :=
  s.cause

/-- The read-only STATUS value: `STATUS[0] = PHASE`, `STATUS[1] = ERR`, `STATUS[3:2] = CAUSE`, upper bits zero (R32). The
spec gives its width only as far as bit 3, so it is read at any width of four bits or more (log entry 7). -/
def statusOut (upper : Nat) (s : State) : BitVec (4 + upper) :=
  (causeOut s ++ errOut s ++ doneOut s).setWidth (4 + upper)

/-- "if ERR = 0 then ERR <- 1 ; CAUSE <- q": the first fault is kept, later ones change nothing (R32, R177). -/
def recordFault (q : FaultCause) (s : State) : State :=
  if s.err then s else { s with err := true, cause := q.code }

end Sys2Proof.Machine
end

