-- ==== Sys2Proof/Machine/Rounds.lean ====
section
/-! DEFINITION. The arithmetic of the round pipeline as pure functions: F, G, one step, and the compression function of
four words and 64 bytes (spec/41_compress.md R103 to R109). -/

namespace Sys2Proof.Machine

/-- The round of step i: `r = i div 16` (R100). -/
def roundOf (i : Nat) : Nat :=
  i / 16

/-- `F(r, b, c, d)`, the mixing function of round r in 0..3 (R104). -/
def mixF (r : Nat) (b c d : Word) : Word :=
  if r = 0 then (b &&& c) ||| (~~~b &&& d)
  else if r = 1 then (b &&& d) ||| (~~~d &&& c)
  else if r = 2 then b ^^^ c ^^^ d
  else c ^^^ (b ||| ~~~d)

/-- `G(i)`, the message index of step i, on natural numbers (R105). -/
def msgIndex (i : Nat) : Nat :=
  if roundOf i = 0 then i
  else if roundOf i = 1 then (5 * i + 1) % 16
  else if roundOf i = 2 then (3 * i + 5) % 16
  else (7 * i) % 16

/-- The source's `f'`, written t here: `t = a +32 f +32 K[i] +32 m[g]` (R106). -/
def stepSum (m : List Word) (w : Words4) (i : Nat) : Word :=
  w.a + mixF (roundOf i) w.b w.c w.d + kConst i + m.getD (msgIndex i) 0

/-- What STEP i makes of the working registers: `par a <- d ; d <- c ; c <- b ; b <- b +32 rotl32(t, S[i])`, every
right-hand side from before the step (R106, C11). -/
def stepWords (m : List Word) (w : Words4) (i : Nat) : Words4 :=
  { a := w.d
    b := w.b + rotl32 (stepSum m w i) (rotAmount i)
    c := w.b
    d := w.c }

/-- The message words of a block of 64 bytes, `m[j] = le32(block[4j], ..., block[4j+3])` (R103, R109). -/
def messageWords (block : List Byte) : List Word :=
  (List.range 16).map fun j =>
    le32 (block.getD (4 * j) 0) (block.getD (4 * j + 1) 0) (block.getD (4 * j + 2) 0) (block.getD (4 * j + 3) 0)

/-- `compress(h, block)`: the 64 steps in order from h, then the lane-wise addition of h (R109). Total: it depends on
nothing but h and the 64 bytes. -/
def compress (h : Words4) (block : List Byte) : Words4 :=
  h.addLanes ((List.range 64).foldl (stepWords (messageWords block)) h)

end Sys2Proof.Machine
end

