-- ==== Sys2Proof/Machine/Ops.lean ====
section
/-! DEFINITION. The named operations on the state: one write per register, the micro-operations LDM, STEP, ACCUM, COMPRESS
and PUSH (spec/41_compress.md, spec/40_commands.md R84), taking a fault (spec/60_exceptions.md R177), reset
(spec/70_reset_and_hazards.md R195) and the host's next event. -/

namespace Sys2Proof.Machine

/-! ### One write per register (R12) -/

/-- `H <- v`, all four words in one action (R23). -/
def State.setH (s : State) (v : Words4) : State := { s with h := v }
/-- `MemWrite(BUF, addr, 1, v)` (R13). -/
def State.setBufByte (s : State) (addr : Nat) (v : Byte) : State := { s with buf := s.buf.writeByte addr v }
/-- `BLEN <- v`. -/
def State.setBlen (s : State) (v : BitVec 6) : State := { s with blen := v }
/-- `COUNT <- v`. -/
def State.setCount (s : State) (v : BitVec 64) : State := { s with count := v }
/-- `PHASE <- v`. -/
def State.setPhase (s : State) (v : Phase) : State := { s with phase := v }
/-- The hidden registers a, b, c, d and i, written together. -/
def State.setHidden (s : State) (x : Hidden) : State := { s with hidden := x }
/-- The model's counter of free values. -/
def State.setFresh (s : State) (n : Nat) : State := { s with fresh := n }

/-! ### COMPRESS and its micro-operations -/

/-- LDM: `m[j] = MemRead(BUF, 4j, 4)` for j in 0..15; the words are values, no state (R25, R103). -/
def ldm (s : State) : List Word :=
  (List.range 16).map fun j => s.buf.readWord (4 * j)

/-- The working registers are loaded with a copy of H, and i starts at 0 (R24, R107). -/
def loadHidden (h : Words4) : Hidden :=
  { work := h, stepNo := 0 }

/-- STEP: the four working registers together, then `i <- i + 1` (R106). It has no other operand than the hidden
registers and the message words. -/
def stepOp (m : List Word) (x : Hidden) : Hidden :=
  { work := stepWords m x.work x.stepNo.toNat, stepNo := x.stepNo + 1 }

/-- n STEPs in order, each on the registers the one before wrote (R100, R107). -/
def stepOps (m : List Word) : Nat → Hidden → Hidden
  | 0, x => x
  | n + 1, x => stepOps m n (stepOp m x)

/-- ACCUM: the working registers are added into H, lane by lane, all four words in one action (R108). -/
def accumOp (x : Hidden) (s : State) : State :=
  s.setH (s.h.addLanes x.work)

/-- The hidden registers once a COMPRESS is over: free values (R24, R27, R35; log entry 3). -/
def freeHidden (n : Nat) : Hidden :=
  { work := ⟨Config.freeWord n, Config.freeWord (n + 1), Config.freeWord (n + 2), Config.freeWord (n + 3)⟩
    stepNo := Config.freeStepNo n }

/-- COMPRESS: LDM, load, 64 STEPs, ACCUM, in this order (R100, R109). It writes H and the hidden registers only. -/
def compressOp (s : State) : State :=
  ((accumOp (stepOps (ldm s) 64 (loadHidden s.h)) s).setHidden (freeHidden s.fresh)).setFresh (s.fresh + 4)

/-! ### PUSH -/

/-- PUSH(v): the byte goes to BUF[BLEN]; the 64th byte runs COMPRESS and empties the buffer (R84). -/
def pushByte (v : Byte) (s : State) : State :=
  if s.blen = 63 then (compressOp (s.setBufByte s.blen.toNat v)).setBlen 0
  else (s.setBufByte s.blen.toNat v).setBlen (s.blen + 1)

/-- PUSH of each byte of a sequence, in order. -/
def pushBytes (vs : List Byte) (s : State) : State :=
  vs.foldl (fun t v => pushByte v t) s

/-! ### Faults and reset -/

/-- TAKING A FAULT: ERR and CAUSE record it if none is recorded yet; "nothing else: H, BUF, BLEN, COUNT and PHASE are
exactly as before the command" (R177). No pc, no vector, no saved context and no mode exist (R177). There is no return
from a fault: "There is no return-from-trap command, because there is no handler to return from" (R182). -/
def raiseFault (q : FaultCause) (s : State) : State :=
  recordFault q s

/-- RESET, "the only event that clears ERR and CAUSE": every piece of the engine's state takes its reset value (R38,
R195). The host's events are the host's and stay; the counter of free values goes on, so that no free value is handed
out twice (log entries 3 and 5). -/
def resetEngine (s : State) : State :=
  { State.reset with fresh := s.fresh, host := s.host }

/-! ### The host's side -/

/-- The host's next event, and the state once it has been taken from the host (R15: one at a time, in issue order); none
when the host presents nothing. The engine keeps no copy of a command word (R36). -/
def nextEvent (s : State) : Option (HostEvent × State) :=
  match s.host with
  | [] => none
  | e :: es => some (e, { s with host := es })

/-- With nothing presented "the engine simply holds its state" (R190). -/
def idle (s : State) : State :=
  s

/-- The state in which the host's next event is the given one. -/
def present (e : HostEvent) (s : State) : State :=
  { s with host := e :: s.host }

end Sys2Proof.Machine
end

