-- ==== Sys2Proof/Machine/Padding.lean ====
section
/-! DEFINITION. The padding rule as a pure function and PADSEQ, which pushes it (spec/42_finalizer.md R130 to R133). -/

namespace Sys2Proof.Machine

/-- `z(L) = (55 − L) mod 64`, the number of zero bytes; it depends on L mod 64 only (R131). -/
def zeroFill (L : Nat) : Nat :=
  (119 - L % 64) % 64

/-- The length field of a message of N bytes: `(8·N) mod 2^64`, COUNT shifted left by 3 (R132). -/
def lengthField (count : BitVec 64) : BitVec 64 :=
  count <<< 3

/-- The terminator, z zero bytes for a buffer of n bytes, and the length field of N message bytes (R130, R133). -/
def padBytes (n : Nat) (count : BitVec 64) : List Byte :=
  [0x80] ++ zeros (zeroFill n) ++ bytes64 (lengthField count)

/-- `pad(L)` for a natural number L of bytes: `[0x80] ‖ zeros(z(L)) ‖ bytes64((8·L) mod 2^64)` (R131). -/
def pad (L : Nat) : List Byte :=
  [0x80] ++ zeros (zeroFill L) ++ bytes64 (BitVec.ofNat 64 (8 * L))

/-- PADSEQ, with n and N as BLEN and COUNT stand at its start: PUSH(0x80), z zero bytes, the eight length bytes (R133).
COUNT is not changed: "never includes padding bytes". -/
def padSeq (s : State) : State :=
  pushBytes (bytes64 (lengthField s.count)) (pushBytes (zeros (zeroFill s.blen.toNat)) (pushByte 0x80 s))

end Sys2Proof.Machine
end

