-- ==== Sys2Proof/Machine/Serializer.lean ====
section
/-! DEFINITION. The state serializer (spec/43_serializer.md): SER, DESER, the 128-bit output and what the host makes of
it. -/

namespace Sys2Proof.Machine

/-- SER: `ser(h) = bytes32(h[0]) ‖ bytes32(h[1]) ‖ bytes32(h[2]) ‖ bytes32(h[3])` (R145). -/
def ser (h : Words4) : List Byte :=
  bytes32 h.a ++ bytes32 h.b ++ bytes32 h.c ++ bytes32 h.d

/-- Word k of DESER: `le32(t[4k], t[4k+1], t[4k+2], t[4k+3])` (R146). -/
def deserWord (t : List Byte) (k : Nat) : Word :=
  le32 (t.getD (4 * k) 0) (t.getD (4 * k + 1) 0) (t.getD (4 * k + 2) 0) (t.getD (4 * k + 3) 0)

/-- DESER of a 16-byte sequence (R146). The engine applies it to the 16 bytes of the `tag` field only; what a sequence
of another length gives is used by no rule (log entry 9). -/
def deser (t : List Byte) : Words4 :=
  ⟨deserWord t 0, deserWord t 1, deserWord t 2, deserWord t 3⟩

/-- The output `digest_out` = `le128(ser(H))`, driven in every phase (R33, R147). -/
def digestOut (s : State) : BitVec 128 :=
  le128 (ser s.h)

/-- `RDDIGEST`: the host samples `digest_out` and forms the bytes `bytes128(digest_out)` (R156). It issues no command and
changes no state. -/
def rdDigest (s : State) : List Byte :=
  bytes128 (digestOut s)

end Sys2Proof.Machine
end

