-- ==== Sys2Proof/Machine/Commands.lean ====
section
/-! DEFINITION. The meaning of the five commands (spec/40_commands.md R80 to R83, spec/42_finalizer.md R134) and of a
command word with a reserved opcode (spec/60_exceptions.md R175). Each is given the state from which the host's command
has already been taken. -/

namespace Sys2Proof.Machine

/-- NOP: "State after equals state before, every field" (R80). -/
def execNop (s : State) : Host.Outcome State Fault Refusal :=
  .next s

/-- INIT: H <- IV, BLEN <- 0, COUNT <- 0, PHASE <- ACTIVE, in either phase; ERR, CAUSE and the bytes of BUF stay
(R81). -/
def execInit (s : State) : Host.Outcome State Fault Refusal :=
  .next ((((s.setH iv).setBlen 0).setCount 0).setPhase .active)

/-- RESUME: H <- deser(t) for the 16 bytes t of the tag field, BLEN <- 0, COUNT <- count, PHASE <- ACTIVE, in either
phase, for every tag and every count; ERR and CAUSE stay (R82). -/
def execResume (tag : BitVec 128) (count : BitVec 64) (s : State) : Host.Outcome State Fault Refusal :=
  .next ((((s.setH (deser (bytes128 tag))).setBlen 0).setCount count).setPhase .active)

/-- ABSORB: UseAfterFinalize in phase DONE, else COUNT <- COUNT +64 1 and PUSH(byte) (R83). -/
def execAbsorb (byte : Byte) (s : State) : Host.Outcome State Fault Refusal :=
  match s.phase with
  | .done => .next (raiseFault .useAfterFinalize s)
  | .active => .next (pushByte byte (s.setCount (s.count + 1)))

/-- FINALIZE: UseAfterFinalize in phase DONE, else PADSEQ and PHASE <- DONE (R134). -/
def execFinalize (s : State) : Host.Outcome State Fault Refusal :=
  match s.phase with
  | .done => .next (raiseFault .useAfterFinalize s)
  | .active => .next ((padSeq s).setPhase .done)

/-- A command word with a reserved opcode: IllegalCommand, in either phase; "the offending opcode is not saved"
(R175). -/
def execIllegal (_op : Byte) (s : State) : Host.Outcome State Fault Refusal :=
  .next (raiseFault .illegalCommand s)

end Sys2Proof.Machine
end

