-- ==== Sys2Proof/Machine/Dispatch.lean ====
section
/-! DEFINITION. Which meaning each command has (spec/30_encoding.md R63). -/

namespace Sys2Proof.Machine

def exec (i : Instr) (s : State) : Host.Outcome State Fault Refusal :=
  match i with
  | .nop => Sys2Proof.Machine.execNop s
  | .init => Sys2Proof.Machine.execInit s
  | .resume tag count => Sys2Proof.Machine.execResume tag count s
  | .absorb byte => Sys2Proof.Machine.execAbsorb byte s
  | .finalize => Sys2Proof.Machine.execFinalize s

end Sys2Proof.Machine
end

