-- ==== Sys2Proof/Machine/Step.lean ====
section
/-! DEFINITION. One step of the machine: one event of the host, atomic (spec/00_scope.md R15). -/

namespace Sys2Proof.Machine

/-- One step. A command word is decoded and its command runs to completion (R15, R48); a reserved opcode raises
IllegalCommand, before PHASE is consulted (R181); reset puts the engine into its reset state (R195); with no event the
engine holds its state (R190). There is no program counter and no fetch from memory (R27, R51). -/
def step (s : State) : Host.Outcome State Fault Refusal :=
  match nextEvent s with
  | none => .next (idle s)
  | some (.reset, t) => .next (resetEngine t)
  | some (.command cw, t) =>
    match decode cw with
    | .command i => exec i t
    | .illegal op => execIllegal op t

/-- The state whose very next step runs the command word w (its bits from nbits on are 0): the host presents it ahead of
what it had still to present. Nothing else changes (log entry 4). -/
def State.withFetchWord (s : State) (nbits w : Nat) : State :=
  present (.command (BitVec.ofNat 208 (w % 2 ^ nbits))) s

end Sys2Proof.Machine
end

