-- ==== Sys2Proof/Machine/HostSequences.lean ====
section
/-! DEFINITION. The host sequences of spec/44_host_sequences.md: software that drives the engine (R5), as lists of host
events, the functions the host computes itself, and how a sequence is run. -/

namespace Sys2Proof.Machine

/-- The event that presents a command in its canonical encoding (R64, R69). -/
def issueOf (i : Instr) : HostEvent :=
  .command (encode i)

/-- The host presents a sequence of events, one at a time and each complete before the next (R15, R165). What the host
had still to present before stays behind them. -/
def runEvents : List HostEvent → State → Host.Outcome State Fault Refusal
  | [], s => .next s
  | e :: es, s =>
    match step (present e s) with
    | .next t => runEvents es t
    | .fault r => .fault r
    | .refused r => .refused r

/-- `UPDATE x`: one ABSORB per byte, in order; for the empty sequence no command at all (R155). -/
def updateSeq (x : List Byte) : List HostEvent :=
  x.map fun b => issueOf (.absorb b)

/-- `DIGEST msg`: INIT, UPDATE msg, FINALIZE, and then RDDIGEST of the state reached (R158). -/
def digestSeq (msg : List Byte) : List HostEvent :=
  issueOf .init :: (updateSeq msg ++ [issueOf .finalize])

/-- `NAIVE_MAC key, message` is `DIGEST key ‖ message` (R159). -/
def naiveMacSeq (key message : List Byte) : List HostEvent :=
  digestSeq (key ++ message)

/-- `GLUE L`: no command; the host computes `pad(L)` (R160). -/
def glue (L : Nat) : List Byte :=
  pad L

/-- The count FORGE gives to RESUME: `L + len(glue)` with `L = key_length + len(known_message)` (R161). -/
def forgeCount (keyLength : Nat) (known : List Byte) : Nat :=
  keyLength + known.length + (glue (keyLength + known.length)).length

/-- The commands of `FORGE`: RESUME from the observed tag, UPDATE of the appended message, FINALIZE, and then RDDIGEST of
the state reached is the forged tag (R161). -/
def forgeSeq (observedTag : List Byte) (keyLength : Nat) (known appended : List Byte) : List HostEvent :=
  issueOf (.resume (le128 observedTag) (BitVec.ofNat 64 (forgeCount keyLength known))) ::
    (updateSeq appended ++ [issueOf .finalize])

/-- `forged_message_bytes = known_message ‖ glue ‖ appended_message` (R161, R163). -/
def forgedMessage (keyLength : Nat) (known appended : List Byte) : List Byte :=
  known ++ glue (keyLength + known.length) ++ appended

/-- The first q blocks of P folded into h, each block's output the next block's input (R157). -/
def chainBlocks : Nat → Words4 → List Byte → Words4
  | 0, h, _ => h
  | q + 1, h, p => chainBlocks q (compress h (p.take 64)) (p.drop 64)

/-- `chain(h, P)` for `len(P)` a multiple of 64 (R157). -/
def chain (h : Words4) (p : List Byte) : Words4 :=
  chainBlocks (p.length / 64) h p

/-- `md5(msg)`, for messages of fewer than 2^61 bytes (R157). -/
def md5 (msg : List Byte) : List Byte :=
  ser (chain iv (msg ++ pad msg.length))

end Sys2Proof.Machine
end

