-- ==== Sys2Proof/Safety.lean ====
section
/-! DEFINITION. The terms claims use: the invariant of the command boundaries (spec/10_state.md R34), runs in which no
fault was recorded (spec/60_exceptions.md R183), and what the host can tell apart (R33, R35). -/

namespace Sys2Proof.Machine

/-- The invariant of the command boundaries: BUF is in its canonical form; `PHASE = DONE` implies `BLEN = 0`; CAUSE is a
cause code that is produced, and 0 exactly while ERR is 0 (R32, R34, R178). `0 ≤ BLEN ≤ 63` is the width of BLEN. -/
structure Inv (s : State) : Prop where
  bufWf : s.buf.wf = true
  doneEmpty : s.phase = .done → s.blen = 0
  noErrNoCause : s.err = false → s.cause = 0
  errCause : s.err = true → s.cause = 1 ∨ s.cause = 2

/-- In phase ACTIVE the fill count follows the byte counter: `BLEN = COUNT mod 64` (R29). It holds of an engine started
by reset, INIT, or RESUME with a count that is a multiple of 64. -/
def FillFollowsCount (s : State) : Prop :=
  s.phase = .active → s.blen.toNat = s.count.toNat % 64

/-- "treats a state with ERR = 1 as not final, and takes ERR = 0 as a premise" (R183). -/
def FaultFree (s : State) : Prop :=
  s.err = false

/-- The pending bytes `BUF[0..BLEN)`, oldest first (R28). -/
def State.pending (s : State) : List Byte :=
  s.buf.prefixBytes s.blen.toNat

/-- The block of 64 bytes in the buffer, BUF[0..64) (R109). -/
def State.block (s : State) : List Byte :=
  s.buf.prefixBytes 64

/-- Two states that agree on everything but what the spec calls unspecified and unobservable: the bytes of BUF at and
above BLEN, the hidden registers a, b, c, d and i, and the model's own counter `fresh` (R28, R35, U5). -/
structure SameVisible (s t : State) : Prop where
  h : s.h = t.h
  blen : s.blen = t.blen
  pending : ∀ a, a < s.blen.toNat → s.buf.readByte a = t.buf.readByte a
  count : s.count = t.count
  phase : s.phase = t.phase
  err : s.err = t.err
  cause : s.cause = t.cause
  host : s.host = t.host

/-- The outputs of R33 together, as the host samples them. -/
structure Outputs where
  digest : BitVec 128
  done : BitVec 1
  err : BitVec 1
  cause : BitVec 2
  deriving DecidableEq, Repr

/-- What the host sees when it samples (R33): a function of the state, so sampling changes nothing. -/
def outputs (s : State) : Outputs :=
  { digest := digestOut s, done := doneOut s, err := errOut s, cause := causeOut s }

/-- Every register but ERR and CAUSE is as it was: what a fault leaves (R177). -/
structure SameButFault (s t : State) : Prop where
  h : t.h = s.h
  buf : t.buf = s.buf
  blen : t.blen = s.blen
  count : t.count = s.count
  phase : t.phase = s.phase
  hidden : t.hidden = s.hidden
  fresh : t.fresh = s.fresh
  host : t.host = s.host

/-- t is s with a fault of the given cause code recorded and nothing else changed; the first fault's code is kept
(R177). -/
structure FaultTaken (code : BitVec 2) (s t : State) : Prop where
  same : SameButFault s t
  err : t.err = true
  cause : t.cause = if s.err then s.cause else code

/-- The fields of a command word that its opcode does not use are zero, for an assigned opcode: a canonical word
(R64). -/
def Canonical (cw : CommandWord) : Prop :=
  (cw.op = 0x00 ∨ cw.op = 0x01 ∨ cw.op = 0x04) ∧ cw.byte = 0 ∧ cw.tag = 0 ∧ cw.count = 0 ∨
  cw.op = 0x02 ∧ cw.byte = 0 ∨
  cw.op = 0x03 ∧ cw.tag = 0 ∧ cw.count = 0

end Sys2Proof.Machine
end

