-- ==== Sys2Proof/Certificates/Slice0/Obligations.lean ====
section
/-! DEFINITION. The statements for the provers, from the numbered rules of spec/. Each docstring names the rule it
formalises, or the log entry where it rests on a choice of the model. The field `host`, the list of events the host has
still to present, is the model's input (log entry 4): a clause about it says which event a step takes, or that the later
ones are not touched, and formalises no rule. -/

open Sys2Proof Sys2Proof.Machine

/-! ### Reset, and what a step is -/

/-- R38: the state after reset, and its outputs. (BUF and the hidden registers are unspecified there; nothing is said of
them.) -/
def Obligations.ResetLeavesTheStatedValues : Prop :=
  State.reset.h = ⟨0x67452301, 0xEFCDAB89, 0x98BADCFE, 0x10325476⟩ ∧ State.reset.blen = 0 ∧ State.reset.count = 0 ∧
  State.reset.phase = .active ∧ State.reset.err = false ∧ State.reset.cause = 0 ∧
  outputs State.reset = { digest := 0x1032547698BADCFEEFCDAB8967452301, done := 0, err := 0, cause := 0 }

/-- R195: reset, in any state, puts H, BLEN, COUNT, PHASE, ERR and CAUSE into the values of R38; and a step that clears
ERR or changes CAUSE while ERR is 1 is a reset. -/
def Obligations.ResetIsTheOnlyEventThatClearsErr : Prop :=
  (∀ (s : State) (es : List HostEvent), s.host = .reset :: es → ∃ t, step s = .next t ∧
    t.h = ⟨0x67452301, 0xEFCDAB89, 0x98BADCFE, 0x10325476⟩ ∧ t.blen = 0 ∧ t.count = 0 ∧ t.phase = .active ∧
    t.err = false ∧ t.cause = 0 ∧ t.host = es) ∧
  (∀ s t : State, step s = .next t → s.err = true → t.err = false ∨ t.cause ≠ s.cause →
    ∃ es, s.host = .reset :: es)

/-- A step runs the command the host presents: exec of what the decoder reads, on the state from which the command word
has been taken; without an event the engine holds its state (R15, R190; the host's list is the model's, log entry 4). -/
def Obligations.StepRunsTheDecodedCommand : Prop :=
  (∀ (s : State) (cw : CommandWord) (es : List HostEvent) (i : Instr),
    s.host = .command cw :: es → decode cw = .command i → step s = exec i { s with host := es }) ∧
  (∀ s : State, s.host = [] → step s = .next s)

/-- Placing a table word for the next step: the word the decoder reads is the one the next step runs. -/
def Obligations.PlacedTableWordRunsNext : Prop :=
  ∀ (s : State) (nbits w : Nat) (i : Instr), decodeTableWord nbits w = some i →
    step (s.withFetchWord nbits w) = exec i s

/-- R179, R199: no state and no event stops the machine; every command terminates in a next state. -/
def Obligations.EveryStepAnswersANextState : Prop :=
  (∀ s : State, ∃ t, step s = .next t) ∧ ∀ (i : Instr) (s : State), ∃ t, exec i s = .next t

/-! ### Encoding -/

/-- R63: read `op`, select the row, read the operands the row names; the fields as numbers, `v[hi:lo] = (v >> lo) mod
2^(hi-lo+1)` (R8). The last clause is the decoder's part of R65. -/
def Obligations.DecoderFollowsTheOpcodeMap : Prop :=
  ∀ cw : CommandWord,
    (cw.toNat % 2 ^ 8 = 0 → decode cw = .command .nop) ∧
    (cw.toNat % 2 ^ 8 = 1 → decode cw = .command .init) ∧
    (cw.toNat % 2 ^ 8 = 2 → decode cw =
      .command (.resume (BitVec.ofNat 128 (cw.toNat / 2 ^ 16 % 2 ^ 128)) (BitVec.ofNat 64 (cw.toNat / 2 ^ 144)))) ∧
    (cw.toNat % 2 ^ 8 = 3 → decode cw = .command (.absorb (BitVec.ofNat 8 (cw.toNat / 2 ^ 8 % 2 ^ 8)))) ∧
    (cw.toNat % 2 ^ 8 = 4 → decode cw = .command .finalize) ∧
    (5 ≤ cw.toNat % 2 ^ 8 → decode cw = .illegal (BitVec.ofNat 8 (cw.toNat % 2 ^ 8)))

/-- R62: the operands are read from CW unsigned, unscaled and unsplit: `byte = CW[15:8]`, `count = CW[207:144]`, and the
tag is the sequence of 16 bytes `t[j] = CW[16+8j+7 : 16+8j]`, with `CW[143:16] = le128(t)`. -/
def Obligations.OperandsAreFieldsOfTheCommandWord : Prop :=
  ∀ cw : CommandWord,
    cw.byte.toNat = cw.toNat / 2 ^ 8 % 2 ^ 8 ∧ cw.count.toNat = cw.toNat / 2 ^ 144 ∧
    cw.tag.toNat = cw.toNat / 2 ^ 16 % 2 ^ 128 ∧
    bytes128 cw.tag = (List.range 16).map (fun j => BitVec.ofNat 8 (cw.toNat / 2 ^ (16 + 8 * j) % 2 ^ 8)) ∧
    cw.tag = le128 (bytes128 cw.tag)

/-- R64: two words with the same opcode that differ only in fields the opcode does not use are the same command, with
the same effect and the same fault; and the words the encoder writes have zeros there. -/
def Obligations.UnusedFieldsAreIgnoredAndWrittenAsZero : Prop :=
  (∀ (s : State) (cw cw' : CommandWord), cw.op = cw'.op →
    (cw.op = 0x02 → cw.tag = cw'.tag ∧ cw.count = cw'.count) → (cw.op = 0x03 → cw.byte = cw'.byte) →
    decode cw = decode cw' ∧ step (present (.command cw) s) = step (present (.command cw') s)) ∧
  (∀ i : Instr, Canonical (encode i))

/-- R61 to R65: the decoder reads every command back from its canonical word. -/
def Obligations.DecodeOfEncodeIsTheCommand : Prop :=
  ∀ i : Instr, decode (encode i) = .command i

/-- R64: a word that decodes to a command is the encoder's word exactly when its unused fields are zero. -/
def Obligations.CanonicalWordsAreTheEncodersWords : Prop :=
  ∀ (cw : CommandWord) (i : Instr), decode cw = .command i → (encode i = cw ↔ Canonical cw)

/-- R70: the worked encodings: the encoder writes these words and the decoder reads them back; opcode 0x05 is illegal.
-/
def Obligations.WorkedEncodingsAgree : Prop :=
  (∀ p ∈ [(Instr.nop, 0x0000000000000000000000000000000000000000000000000000#208),
      (Instr.init, 0x0000000000000000000000000000000000000000000000000001#208),
      (Instr.absorb 0x61, 0x0000000000000000000000000000000000000000000000006103#208),
      (Instr.finalize, 0x0000000000000000000000000000000000000000000000000004#208),
      (Instr.resume (le128 [0x90, 0x01, 0x50, 0x98, 0x3c, 0xd2, 0x4f, 0xb0, 0xd6, 0x96, 0x3f, 0x7d, 0x28, 0xe1, 0x7f, 0x72]) 64,
        0x0000000000000040727fe1287d3f96d6b04fd23c985001900002#208)],
    encode p.1 = p.2 ∧ decode p.2 = .command p.1) ∧
  decode 0x0000000000000000000000000000000000000000000000000005#208 = .illegal 5

/-- R68: what each line of the assembler stands for. A tag is the display form of its 16 bytes (R149); a number 0 to 255
or a quoted ASCII character is that byte; a repeat count n gives n copies of the line's canonical word (R64). The model's
own choice, log entry 10: which lines are ill formed (digits that are not lower case, characters from 128 on, counts from
2^64 on), that an ill-formed line stands for no command, and that a listing with one stands for no words. -/
def Obligations.AssemblerReadsTheDisplayForm : Prop :=
  (∀ l : AsmLine, (∃ i, l.toInstr = some i) ↔ l.wellFormed = true) ∧
  AsmLine.nop.toInstr = some .nop ∧ AsmLine.init.toInstr = some .init ∧ AsmLine.finalize.toInstr = some .finalize ∧
  (∀ (t : List Byte) (n : Nat), t.length = 16 → n < 2 ^ 64 →
    (AsmLine.resume (hexstr t) n).toInstr = some (.resume (le128 t) (BitVec.ofNat 64 n))) ∧
  (∀ n : Nat, n < 256 → ∃ b : Byte, (AsmLine.absorb (.number n)).toInstr = some (.absorb b) ∧ b.toNat = n) ∧
  (∀ c : Char, c.toNat < 128 →
    ∃ b : Byte, (AsmLine.absorb (.quoted c)).toInstr = some (.absorb b) ∧ b.toNat = c.toNat) ∧
  (∀ ps : List (AsmRow × Instr), (∀ p ∈ ps, p.1.line.toInstr = some p.2) →
    assemble (ps.map Prod.fst) = some (ps.flatMap fun p => List.replicate p.1.times (encode p.2))) ∧
  (∀ rows : List AsmRow, (∃ r ∈ rows, r.line.wellFormed = false) → assemble rows = none)

/-! ### The commands -/

/-- R80: NOP, op 0x00, gives s in any state s. -/
def Obligations.NopLeavesEveryField : Prop :=
  (∀ cw : CommandWord, cw.op = 0x00 → decode cw = .command .nop) ∧
  (∀ s : State, exec .nop s = .next s)

/-- R81: INIT, op 0x01, writes H, BLEN, COUNT and PHASE, in either phase, and leaves every other field, BUF, ERR and
CAUSE among them; the outputs show a fresh engine; right after reset it changes nothing. -/
def Obligations.InitMakesAFreshEngine : Prop :=
  (∀ cw : CommandWord, cw.op = 0x01 → decode cw = .command .init) ∧
  (∀ s : State, exec .init s =
    .next { s with h := ⟨0x67452301, 0xEFCDAB89, 0x98BADCFE, 0x10325476⟩, blen := 0, count := 0, phase := .active }) ∧
  (∀ s t : State, exec .init s = .next t →
    digestOut t = 0x1032547698BADCFEEFCDAB8967452301 ∧ doneOut t = 0) ∧
  exec .init State.reset = .next State.reset

/-- R82: RESUME, op 0x02, writes H, BLEN, COUNT and PHASE, in either phase, for every tag and every count, and leaves
every other field; `digest_out` then shows the tag; `RESUME tag=ser(IV), count=0` is INIT. -/
def Obligations.ResumeInjectsTheState : Prop :=
  (∀ cw : CommandWord, cw.op = 0x02 → decode cw = .command (.resume cw.tag cw.count)) ∧
  (∀ (t : List Byte) (count : BitVec 64) (s : State), t.length = 16 → exec (.resume (le128 t) count) s =
    .next { s with
      h := ⟨le32 (t.getD 0 0) (t.getD 1 0) (t.getD 2 0) (t.getD 3 0), le32 (t.getD 4 0) (t.getD 5 0) (t.getD 6 0) (t.getD 7 0),
        le32 (t.getD 8 0) (t.getD 9 0) (t.getD 10 0) (t.getD 11 0), le32 (t.getD 12 0) (t.getD 13 0) (t.getD 14 0) (t.getD 15 0)⟩
      blen := 0
      count := count
      phase := .active }) ∧
  (∀ (tag : BitVec 128) (count : BitVec 64) (s : State), ∃ u, exec (.resume tag count) s = .next u ∧
    digestOut u = tag ∧ u.blen = 0 ∧ u.count = count ∧ u.phase = .active ∧ u.err = s.err ∧ u.cause = s.cause ∧
    u.buf = s.buf ∧ u.hidden = s.hidden ∧ u.host = s.host) ∧
  (∀ s : State, exec (.resume (le128 (ser iv)) 0) s = exec .init s)

/-- R83 (op 0x03), with R84 for what PUSH does: below the end of the block the byte is stored and counted; the 64th
byte compresses the block of the 63 pending bytes and itself; in phase DONE nothing happens but the recorded fault.
COUNT goes up by 1 mod 2^64. -/
def Obligations.AbsorbFeedsOneByte : Prop :=
  (∀ cw : CommandWord, cw.op = 0x03 → decode cw = .command (.absorb cw.byte)) ∧
  ∀ (b : Byte) (s : State),
    (s.phase = .active → s.blen ≠ 63 → exec (.absorb b) s =
      .next { s with buf := s.buf.writeByte s.blen.toNat b, blen := s.blen + 1, count := s.count + 1 }) ∧
    (s.phase = .active → s.blen = 63 → ∃ t, exec (.absorb b) s = .next t ∧
      t.h = compress s.h (s.pending ++ [b]) ∧ t.buf = s.buf.writeByte 63 b ∧ t.blen = 0 ∧ t.count = s.count + 1 ∧
      t.phase = .active ∧ t.err = s.err ∧ t.cause = s.cause ∧ t.host = s.host) ∧
    (s.phase = .done → ∃ t, exec (.absorb b) s = .next t ∧ FaultTaken 1 s t)

/-- What ABSORB leaves unchanged (R23, R83, R84): every byte of BUF but BUF[BLEN]; H, unless the byte completes the
block; PHASE; ERR and CAUSE, unless it faults; the hidden registers, unless a COMPRESS ran. -/
def Obligations.AbsorbFrame : Prop :=
  ∀ (b : Byte) (s t : State), exec (.absorb b) s = .next t →
    (∀ a, s.phase = .active → a ≠ s.blen.toNat → t.buf.readByte a = s.buf.readByte a) ∧
    (s.phase = .active → t.buf.readByte s.blen.toNat = b) ∧
    (s.phase = .done → t.buf = s.buf) ∧
    (s.blen ≠ 63 → t.h = s.h ∧ t.hidden = s.hidden) ∧
    t.phase = s.phase ∧ (s.phase = .active → t.err = s.err ∧ t.cause = s.cause) ∧ t.host = s.host

/-- R134 (op 0x04): FINALIZE in phase ACTIVE is PADSEQ and PHASE = DONE, in phase DONE the recorded fault and nothing else.
What PADSEQ makes of H, the chain over the blocks of the pending bytes, the terminator, the zero fill that follows BLEN
and the length field that follows COUNT, is derived: from R133 and R84, as the spec derives R85 and R136. -/
def Obligations.FinalizePadsAndCompresses : Prop :=
  (∀ cw : CommandWord, cw.op = 0x04 → decode cw = .command .finalize) ∧
  ∀ s : State,
    (s.phase = .active → ∃ t, exec .finalize s = .next t ∧
      t.h = chain s.h (s.pending ++ [0x80] ++ zeros ((119 - s.blen.toNat) % 64) ++
        bytes64 (BitVec.ofNat 64 (8 * s.count.toNat))) ∧
      rdDigest t = ser t.h ∧ t.blen = 0 ∧ t.count = s.count ∧ t.phase = .done ∧ t.err = s.err ∧ t.cause = s.cause ∧
      t.host = s.host) ∧
    (s.phase = .done → ∃ t, exec .finalize s = .next t ∧ FaultTaken 1 s t)

/-- What the spec derives as R135 from R133: FINALIZE compresses one block when BLEN ≤ 55 and two when 56 ≤ BLEN ≤ 63,
with the zero bytes and the padding bytes of the table. -/
def Obligations.FinalizeCompressesOneOrTwoBlocks : Prop :=
  ∀ s t : State, s.phase = .active → exec .finalize s = .next t →
    (s.blen.toNat ≤ 55 →
      t.h = compress s.h (s.pending ++ [0x80] ++ zeros (55 - s.blen.toNat) ++
        bytes64 (BitVec.ofNat 64 (8 * s.count.toNat))) ∧
      zeroFill s.blen.toNat = 55 - s.blen.toNat ∧ (padBytes s.blen.toNat s.count).length = 64 - s.blen.toNat) ∧
    (56 ≤ s.blen.toNat →
      t.h = compress (compress s.h (s.pending ++ [0x80] ++ zeros (63 - s.blen.toNat)))
        (zeros 56 ++ bytes64 (BitVec.ofNat 64 (8 * s.count.toNat))) ∧
      zeroFill s.blen.toNat = 119 - s.blen.toNat ∧ (padBytes s.blen.toNat s.count).length = 128 - s.blen.toNat)

/-- What FINALIZE leaves unchanged: every byte of BUF but those the padding is pushed to, which are the addresses from
BLEN on, round the 64 cells; in phase DONE, all of BUF (R84, R133, R134). -/
def Obligations.FinalizeFrame : Prop :=
  ∀ s t : State, exec .finalize s = .next t →
    (s.phase = .active → ∀ a, (∀ k, k < (padBytes s.blen.toNat s.count).length → a ≠ (s.blen.toNat + k) % 64) →
      t.buf.readByte a = s.buf.readByte a) ∧
    (s.phase = .done → t.buf = s.buf ∧ t.h = s.h ∧ t.blen = s.blen ∧ t.hidden = s.hidden) ∧
    t.count = s.count ∧ t.phase = .done ∧ (s.phase = .active → t.err = s.err ∧ t.cause = s.cause) ∧ t.host = s.host

/-! ### Faults and flags -/

/-- R175, R177, R181: a reserved opcode, in either phase and whatever the other fields hold, records cause 2 and does
nothing else. -/
def Obligations.ReservedOpcodeRaisesIllegalCommand : Prop :=
  ∀ (s : State) (cw : CommandWord) (es : List HostEvent), s.host = .command cw :: es → 5 ≤ cw.toNat % 2 ^ 8 →
    ∃ t, step s = .next t ∧ FaultTaken 2 { s with host := es } t

/-- R176: UseAfterFinalize is raised by ABSORB and FINALIZE in phase DONE and by nothing else, whatever a step runs;
it records its cause code and nothing else. Said of a state with no fault recorded, where a fault shows in ERR and
CAUSE. -/
def Obligations.UseAfterFinalizeIsRaisedByTheseAlone : Prop :=
  ∀ s t : State, s.err = false → step s = .next t →
    (t.err = true ∧ t.cause = 1 ↔
      s.phase = .done ∧ ∃ cw es i, s.host = .command cw :: es ∧ decode cw = .command i ∧
        (i = .finalize ∨ ∃ b, i = .absorb b)) ∧
    (t.err = true ∧ t.cause = 1 → FaultTaken 1 { s with host := t.host } t)

/-- R177: fault entry. The first fault sets ERR and CAUSE and nothing else; with ERR = 1 a further fault changes nothing
at all (the codes are those of R178); and "later commands run as usual": what a command makes of H, BUF, BLEN, COUNT and
PHASE does not depend on a fault recorded before. -/
def Obligations.FaultEntryIsPrecise : Prop :=
  (∀ (q : FaultCause) (s : State),
    (s.err = false → raiseFault q s = { s with err := true, cause := q.code }) ∧
    (s.err = true → raiseFault q s = s)) ∧
  FaultCause.useAfterFinalize.code = 1 ∧ FaultCause.illegalCommand.code = 2 ∧
  (∀ (i : Instr) (s : State) (e : Bool) (c : BitVec 2), ∃ t t', exec i s = .next t ∧
    exec i { s with err := e, cause := c } = .next t' ∧
    t'.h = t.h ∧ t'.buf = t.buf ∧ t'.blen = t.blen ∧ t'.count = t.count ∧ t'.phase = t.phase)

/-- R182: with a fault recorded and no reset, ERR and CAUSE stay through every step, a nested fault among them; and INIT
and RESUME make the engine usable again. -/
def Obligations.ErrAndCauseStayUntilReset : Prop :=
  (∀ s t : State, step s = .next t → s.err = true → (∀ es, s.host ≠ .reset :: es) → t.err = true ∧ t.cause = s.cause) ∧
  (∀ (s : State) (i : Instr), (i = .init ∨ ∃ tag count, i = .resume tag count) →
    ∃ t, exec i s = .next t ∧ t.phase = .active ∧ t.err = s.err ∧ t.cause = s.cause)

/-- R32: the STATUS value, bit by bit: PHASE, ERR, CAUSE, and zeros above. -/
def Obligations.StatusLayout : Prop :=
  ∀ (upper : Nat) (s : State),
    (statusOut upper s).getLsbD 0 = decide (s.phase = .done) ∧
    (statusOut upper s).getLsbD 1 = s.err ∧
    (statusOut upper s).extractLsb' 2 2 = s.cause ∧
    ∀ k, 4 ≤ k → (statusOut upper s).getLsbD k = false

/-- R79: the lifecycle table, row by row; in the rows of a fault nothing else changes. -/
def Obligations.LifecycleTable : Prop :=
  ∀ (s : State) (es : List HostEvent),
    (s.host = .reset :: es → ∃ t, step s = .next t ∧ t.phase = .active) ∧
    (∀ cw, s.host = .command cw :: es →
      (decode cw = .command .init → ∃ t, step s = .next t ∧ t.phase = .active) ∧
      (∀ tag count, decode cw = .command (.resume tag count) → ∃ t, step s = .next t ∧ t.phase = .active) ∧
      (decode cw = .command .nop → step s = .next { s with host := es }) ∧
      (∀ b, decode cw = .command (.absorb b) → s.phase = .active → ∃ t, step s = .next t ∧ t.phase = .active) ∧
      (decode cw = .command .finalize → s.phase = .active → ∃ t, step s = .next t ∧ t.phase = .done) ∧
      (∀ b, decode cw = .command (.absorb b) → s.phase = .done →
        ∃ t, step s = .next t ∧ t.phase = .done ∧ FaultTaken 1 { s with host := es } t) ∧
      (decode cw = .command .finalize → s.phase = .done →
        ∃ t, step s = .next t ∧ t.phase = .done ∧ FaultTaken 1 { s with host := es } t) ∧
      (∀ op, decode cw = .illegal op →
        ∃ t, step s = .next t ∧ t.phase = s.phase ∧ FaultTaken 2 { s with host := es } t))

/-! ### Who writes what, over every step -/

/-- R23: H is written by reset, INIT, RESUME and whole compressions only, and never in part: by ABSORB through the one
block its byte completes, by FINALIZE through the blocks of the padding. -/
def Obligations.WhoWritesTheChainingState : Prop :=
  ∀ s t : State, step s = .next t →
    t.h = s.h ∨
    (∃ es, s.host = .reset :: es ∧ t.h = iv) ∨
    ∃ cw es i, s.host = .command cw :: es ∧ decode cw = .command i ∧
      ((i = .init ∧ t.h = iv) ∨
       (∃ tag count, i = .resume tag count ∧ t.h = deser (bytes128 tag)) ∨
       (∃ b, i = .absorb b ∧ s.phase = .active ∧ s.blen = 63 ∧ t.h = compress s.h (s.pending ++ [b])) ∨
       (i = .finalize ∧ s.phase = .active ∧ t.h = chain s.h (s.pending ++ padBytes s.blen.toNat s.count)))

/-- R30, over every step: COUNT is written by reset and INIT (0), by RESUME (the operand) and by ABSORB (+1 mod 2^64)
only; FINALIZE does not change it, nor does NOP, a refused ABSORB or FINALIZE, a reserved opcode, or a step with nothing
presented. -/
def Obligations.WhoWritesTheByteCounter : Prop :=
  ∀ s t : State, step s = .next t →
    (s.host = [] → t.count = s.count) ∧
    (∀ es, s.host = .reset :: es → t.count = 0) ∧
    (∀ cw es, s.host = .command cw :: es →
      (decode cw = .command .nop → t.count = s.count) ∧
      (decode cw = .command .init → t.count = 0) ∧
      (∀ tag count, decode cw = .command (.resume tag count) → t.count = count) ∧
      (∀ b, decode cw = .command (.absorb b) → s.phase = .active →
        t.count.toNat = (s.count.toNat + 1) % 2 ^ 64) ∧
      (∀ b, decode cw = .command (.absorb b) → s.phase = .done → t.count = s.count) ∧
      (decode cw = .command .finalize → t.count = s.count) ∧
      (∀ op, decode cw = .illegal op → t.count = s.count))

/-! ### Invariants -/

/-- What the spec derives as R34 (with R32 and R178 for CAUSE): every step keeps the invariant of the command
boundaries, from every state that meets it. That BUF stays in its canonical form is the model's own (log entry 1). -/
def Obligations.StepKeepsTheBoundaryInvariant : Prop :=
  ∀ s t : State, Inv s → step s = .next t → Inv t

/-- The state after reset meets the invariants the other statements keep, and no fault is recorded in it (R34, R38). -/
def Obligations.ResetMeetsTheInvariants : Prop :=
  Inv State.reset ∧ FillFollowsCount State.reset ∧ FaultFree State.reset

/-- What the spec derives in R29: in phase ACTIVE, BLEN = COUNT mod 64 at every command boundary of an engine that is
only ever started by reset, INIT, or RESUME with a count that is a multiple of 64. -/
def Obligations.StepKeepsFillFollowsCount : Prop :=
  ∀ s t : State, FillFollowsCount s → step s = .next t →
    (∀ cw es tag count, s.host = .command cw :: es → decode cw = .command (.resume tag count) →
      count.toNat % 64 = 0) →
    FillFollowsCount t

/-- R28, R35: the bytes of BUF at and above BLEN and the hidden registers are unobservable: states that differ only
there (and in the model's counter) take every event to states that differ only there, with the same outputs. -/
def Obligations.UnspecifiedStateIsUnobservable : Prop :=
  ∀ s t : State, SameVisible s t → outputs s = outputs t ∧
    ∃ s' t', step s = .next s' ∧ step t = .next t' ∧ SameVisible s' t' ∧ outputs s' = outputs t'

/-- R81, R82: INIT and RESUME discard the message so far: whatever two engines held, after the same INIT, or the same
RESUME, nothing tells them apart but a fault recorded before. -/
def Obligations.FreshStartForgetsTheMessage : Prop :=
  ∀ (i : Instr) (s t : State), (i = .init ∨ ∃ tag count, i = .resume tag count) → s.err = t.err → s.cause = t.cause →
    s.host = t.host → ∃ s' t', exec i s = .next s' ∧ exec i t = .next t' ∧ SameVisible s' t'

/-- BUF in its canonical form is determined by what its 64 cells read as (the form is the model's, log entry 1): equal
memories are equal data. -/
def Obligations.CanonicalMemoryIsDeterminedByItsBytes : Prop :=
  ∀ m m' : Memory, m.wf = true → m'.wf = true → (∀ a, a < 64 → m.readByte a = m'.readByte a) → m = m'

/-! ### The round pipeline -/

/-- R9: rotl32 is a rotation: bit k of the result is bit (k − s) mod 32 of x; for s = 0 it is x. -/
def Obligations.RotationMovesEveryBit : Prop :=
  ∀ (x : Word) (s k : Nat), s < 32 → k < 32 → (rotl32 x s).getLsbD k = x.getLsbD ((k + 32 - s) % 32)

/-- R104: the four mixing functions, per bit: select c or d by b; select b or c by d; parity; c XOR (b OR NOT d). -/
def Obligations.MixingFunctionsBitByBit : Prop :=
  ∀ (b c d : Word) (k : Nat), k < 32 →
    (mixF 0 b c d).getLsbD k = (if b.getLsbD k then c.getLsbD k else d.getLsbD k) ∧
    (mixF 1 b c d).getLsbD k = (if d.getLsbD k then b.getLsbD k else c.getLsbD k) ∧
    (mixF 2 b c d).getLsbD k = xor (xor (b.getLsbD k) (c.getLsbD k)) (d.getLsbD k) ∧
    (mixF 3 b c d).getLsbD k = xor (c.getLsbD k) (b.getLsbD k || !d.getLsbD k)

/-- The index formulas of R105, and what the spec derives from them: each round uses each of the 16 words exactly
once. -/
def Obligations.MessageIndexVisitsEveryWord : Prop :=
  (∀ i, i < 64 →
    (i < 16 → msgIndex i = i) ∧ (16 ≤ i → i < 32 → msgIndex i = (5 * i + 1) % 16) ∧
    (32 ≤ i → i < 48 → msgIndex i = (3 * i + 5) % 16) ∧ (48 ≤ i → msgIndex i = (7 * i) % 16)) ∧
  (∀ r, r < 4 → ∀ j, j < 16 → ∃ k, k < 16 ∧ msgIndex (16 * r + k) = j ∧
    ∀ k', k' < 16 → msgIndex (16 * r + k') = j → k' = k)

/-- R102: S, its four amounts a round, each in 4 to 23. -/
def Obligations.RotationAmounts : Prop :=
  (∀ i, i < 64 → 4 ≤ rotAmount i ∧ rotAmount i ≤ 23) ∧
  (∀ q, q < 4 →
    [rotAmount (4 * q), rotAmount (4 * q + 1), rotAmount (4 * q + 2), rotAmount (4 * q + 3)] = [7, 12, 17, 22] ∧
    [rotAmount (16 + 4 * q), rotAmount (17 + 4 * q), rotAmount (18 + 4 * q), rotAmount (19 + 4 * q)] = [5, 9, 14, 20] ∧
    [rotAmount (32 + 4 * q), rotAmount (33 + 4 * q), rotAmount (34 + 4 * q), rotAmount (35 + 4 * q)] = [4, 11, 16, 23] ∧
    [rotAmount (48 + 4 * q), rotAmount (49 + 4 * q), rotAmount (50 + 4 * q), rotAmount (51 + 4 * q)] = [6, 10, 15, 21])

/-- R113, row by row as printed: the round, the message index, the rotation amount and the constant K of each of the 64
steps. The
literals of K and S are those of R101 and R102, which the spec supplies from general knowledge (log entry 14). -/
def Obligations.StepTableHasTheStatedRows : Prop :=
  (List.range' 0 16).map (fun i => (roundOf i, msgIndex i, rotAmount i, kConst i)) = [
    (0, 0, 7, 0xD76AA478), (0, 1, 12, 0xE8C7B756), (0, 2, 17, 0x242070DB), (0, 3, 22, 0xC1BDCEEE),
    (0, 4, 7, 0xF57C0FAF), (0, 5, 12, 0x4787C62A), (0, 6, 17, 0xA8304613), (0, 7, 22, 0xFD469501),
    (0, 8, 7, 0x698098D8), (0, 9, 12, 0x8B44F7AF), (0, 10, 17, 0xFFFF5BB1), (0, 11, 22, 0x895CD7BE),
    (0, 12, 7, 0x6B901122), (0, 13, 12, 0xFD987193), (0, 14, 17, 0xA679438E), (0, 15, 22, 0x49B40821)] ∧
  (List.range' 16 16).map (fun i => (roundOf i, msgIndex i, rotAmount i, kConst i)) = [
    (1, 1, 5, 0xF61E2562), (1, 6, 9, 0xC040B340), (1, 11, 14, 0x265E5A51), (1, 0, 20, 0xE9B6C7AA),
    (1, 5, 5, 0xD62F105D), (1, 10, 9, 0x02441453), (1, 15, 14, 0xD8A1E681), (1, 4, 20, 0xE7D3FBC8),
    (1, 9, 5, 0x21E1CDE6), (1, 14, 9, 0xC33707D6), (1, 3, 14, 0xF4D50D87), (1, 8, 20, 0x455A14ED),
    (1, 13, 5, 0xA9E3E905), (1, 2, 9, 0xFCEFA3F8), (1, 7, 14, 0x676F02D9), (1, 12, 20, 0x8D2A4C8A)] ∧
  (List.range' 32 16).map (fun i => (roundOf i, msgIndex i, rotAmount i, kConst i)) = [
    (2, 5, 4, 0xFFFA3942), (2, 8, 11, 0x8771F681), (2, 11, 16, 0x6D9D6122), (2, 14, 23, 0xFDE5380C),
    (2, 1, 4, 0xA4BEEA44), (2, 4, 11, 0x4BDECFA9), (2, 7, 16, 0xF6BB4B60), (2, 10, 23, 0xBEBFBC70),
    (2, 13, 4, 0x289B7EC6), (2, 0, 11, 0xEAA127FA), (2, 3, 16, 0xD4EF3085), (2, 6, 23, 0x04881D05),
    (2, 9, 4, 0xD9D4D039), (2, 12, 11, 0xE6DB99E5), (2, 15, 16, 0x1FA27CF8), (2, 2, 23, 0xC4AC5665)] ∧
  (List.range' 48 16).map (fun i => (roundOf i, msgIndex i, rotAmount i, kConst i)) = [
    (3, 0, 6, 0xF4292244), (3, 7, 10, 0x432AFF97), (3, 14, 15, 0xAB9423A7), (3, 5, 21, 0xFC93A039),
    (3, 12, 6, 0x655B59C3), (3, 3, 10, 0x8F0CCC92), (3, 10, 15, 0xFFEFF47D), (3, 1, 21, 0x85845DD1),
    (3, 8, 6, 0x6FA87E4F), (3, 15, 10, 0xFE2CE6E0), (3, 6, 15, 0xA3014314), (3, 13, 21, 0x4E0811A1),
    (3, 4, 6, 0xF7537E82), (3, 11, 10, 0xBD3AF235), (3, 2, 15, 0x2AD7D2BB), (3, 9, 21, 0xEB86D391)]

/-- R103: LDM gives sixteen words, each the little-endian reading of four bytes of BUF. -/
def Obligations.LdmReadsLittleEndianWords : Prop :=
  ∀ s : State, (ldm s).length = 16 ∧ ∀ j, j < 16 →
    ((ldm s).getD j 0).toNat = (s.buf.readByte (4 * j)).toNat + 2 ^ 8 * (s.buf.readByte (4 * j + 1)).toNat +
      2 ^ 16 * (s.buf.readByte (4 * j + 2)).toNat + 2 ^ 24 * (s.buf.readByte (4 * j + 3)).toNat

/-- R106: one STEP, the four registers together and from the values before it, and i goes up by 1. -/
def Obligations.StepWritesTheFourRegistersTogether : Prop :=
  ∀ (m : List Word) (x : Hidden),
    (stepOp m x).work =
      { a := x.work.d
        b := x.work.b + rotl32 (x.work.a + mixF (x.stepNo.toNat / 16) x.work.b x.work.c x.work.d +
          kConst x.stepNo.toNat + m.getD (msgIndex x.stepNo.toNat) 0) (rotAmount x.stepNo.toNat)
        c := x.work.b
        d := x.work.c } ∧
    (stepOp m x).stepNo = x.stepNo + 1

/-- R108: ACCUM adds a to A, b to B, c to C and d to D, mod 2^32, and leaves every other field. -/
def Obligations.AccumAddsLaneByLane : Prop :=
  ∀ (x : Hidden) (s : State), accumOp x s =
    { s with h := ⟨s.h.a + x.work.a, s.h.b + x.work.b, s.h.c + x.work.c, s.h.d + x.work.d⟩ }

/-- R109: `compress(h, block)` is the 64 steps in order, each from the registers the one before left, and then the four
additions; and the engine's COMPRESS, run micro-operation by micro-operation on BUF, leaves that value in H and touches
BUF, BLEN, COUNT, PHASE, ERR and CAUSE not at all. -/
def Obligations.CompressRunsTheSixtyFourSteps : Prop :=
  (∀ (h : Words4) (block : List Byte), block.length = 64 → ∃ w : Nat → Words4, w 0 = h ∧
    (∀ i, i < 64 → w (i + 1) =
      { a := (w i).d
        b := (w i).b + rotl32 ((w i).a + mixF (i / 16) (w i).b (w i).c (w i).d + kConst i +
          le32 (block.getD (4 * msgIndex i) 0) (block.getD (4 * msgIndex i + 1) 0) (block.getD (4 * msgIndex i + 2) 0)
            (block.getD (4 * msgIndex i + 3) 0)) (rotAmount i)
        c := (w i).b
        d := (w i).c }) ∧
    compress h block = ⟨h.a + (w 64).a, h.b + (w 64).b, h.c + (w 64).c, h.d + (w 64).d⟩) ∧
  (∀ s : State, (compressOp s).h = compress s.h s.block ∧ (compressOp s).buf = s.buf ∧ (compressOp s).blen = s.blen ∧
    (compressOp s).count = s.count ∧ (compressOp s).phase = s.phase ∧ (compressOp s).err = s.err ∧
    (compressOp s).cause = s.cause ∧ (compressOp s).host = s.host)

/-- R84: PUSH stores at BUF[BLEN]; the 64th byte compresses exactly the 64 bytes in the order they were pushed and
empties the buffer. -/
def Obligations.PushFillsAndCompresses : Prop :=
  ∀ (v : Byte) (s : State),
    (s.blen ≠ 63 → pushByte v s = { s with buf := s.buf.writeByte s.blen.toNat v, blen := s.blen + 1 }) ∧
    (s.blen = 63 →
      (pushByte v s).h = compress s.h (s.pending ++ [v]) ∧ (pushByte v s).buf = s.buf.writeByte 63 v ∧
      (pushByte v s).blen = 0 ∧ (pushByte v s).count = s.count ∧ (pushByte v s).phase = s.phase ∧
      (pushByte v s).err = s.err ∧ (pushByte v s).cause = s.cause ∧ (pushByte v s).host = s.host)

/-- What the spec derives as R86, position independence: what a run of pushed bytes does to H and to the pending bytes
does not depend on COUNT, on the phase or on what was recorded before, but only on H and the pending bytes. -/
def Obligations.BlocksAreIndependentOfPosition : Prop :=
  ∀ (vs : List Byte) (s t : State), s.h = t.h → s.blen = t.blen → s.pending = t.pending →
    (pushBytes vs s).h = (pushBytes vs t).h ∧ (pushBytes vs s).blen = (pushBytes vs t).blen ∧
    (pushBytes vs s).pending = (pushBytes vs t).pending

/-! ### Padding -/

/-- R131: pad(L), its three parts, z(L) = (55 − L) mod 64, which depends on L mod 64 only and is the least number of
zero bytes that reaches 56 mod 64, its length, and that it fills whole blocks. -/
def Obligations.PadFillsWholeBlocks : Prop :=
  ∀ L : Nat,
    pad L = [0x80] ++ zeros (zeroFill L) ++ bytes64 (BitVec.ofNat 64 (8 * L % 2 ^ 64)) ∧
    (zeroFill L : Int) = (55 - (L : Int)) % 64 ∧ zeroFill L = zeroFill (L % 64) ∧
    (L + 1 + zeroFill L) % 64 = 56 ∧ (∀ z, z < zeroFill L → (L + 1 + z) % 64 ≠ 56) ∧
    (pad L).length = 9 + zeroFill L ∧ 9 ≤ (pad L).length ∧ (pad L).length ≤ 72 ∧ (L + (pad L).length) % 64 = 0

/-- R132: the length field is 8·COUNT mod 2^64, least significant byte first. -/
def Obligations.LengthFieldIsLittleEndianBitCount : Prop :=
  ∀ count : BitVec 64, (lengthField count).toNat = 8 * count.toNat % 2 ^ 64 ∧
    (bytes64 (lengthField count)).length = 8 ∧
    ∀ k, k < 8 → ((bytes64 (lengthField count)).getD k 0).toNat = 8 * count.toNat % 2 ^ 64 / 2 ^ (8 * k) % 2 ^ 8

/-- What the spec derives as R136: when BLEN = COUNT mod 64, PADSEQ pushes exactly pad(COUNT). -/
def Obligations.PadSeqPushesPadOfCount : Prop :=
  ∀ s : State, s.blen.toNat = s.count.toNat % 64 → padSeq s = pushBytes (pad s.count.toNat) s

/-- What the spec derives as R137 from R133: after PADSEQ the buffer is empty, for every BLEN and every COUNT. -/
def Obligations.PadSeqLeavesTheBufferEmpty : Prop :=
  ∀ s : State, (padSeq s).blen = 0

/-! ### The serializer -/

/-- R145: `ser(h)[4k + n] = h[k][8n+7 : 8n]`, 16 bytes. -/
def Obligations.SerListsTheWordsLittleEndian : Prop :=
  ∀ h : Words4, (ser h).length = 16 ∧
    ∀ (k : Fin 4) (n : Nat), n < 4 → (ser h).getD (4 * k.val + n) 0 = (h.word k).extractLsb' (8 * n) 8

/-- R146 and the round trips of R148: `deser(t)[k] = le32(t[4k], t[4k+1], t[4k+2], t[4k+3])`, and SER and DESER are
inverse to each other. -/
def Obligations.SerializerRoundTrips : Prop :=
  (∀ (t : List Byte) (k : Fin 4), t.length = 16 → (deser t).word k =
    le32 (t.getD (4 * k.val) 0) (t.getD (4 * k.val + 1) 0) (t.getD (4 * k.val + 2) 0) (t.getD (4 * k.val + 3) 0)) ∧
  (∀ h : Words4, deser (ser h) = h) ∧
  (∀ t : List Byte, t.length = 16 → ser (deser t) = t)

/-- R33, with R147 for the bit map: `digest_out[32k+31 : 32k] = H[k]`, in every phase; its bytes are ser(H); the other
outputs are PHASE, ERR and CAUSE. -/
def Obligations.OutputsShowTheState : Prop :=
  ∀ s : State, (∀ k : Fin 4, (digestOut s).extractLsb' (32 * k.val) 32 = s.h.word k) ∧
    (digestOut s).toNat = s.h.a.toNat + 2 ^ 32 * s.h.b.toNat + 2 ^ 64 * s.h.c.toNat + 2 ^ 96 * s.h.d.toNat ∧
    rdDigest s = ser s.h ∧ (doneOut s = 1 ↔ s.phase = .done) ∧ (errOut s = 1 ↔ s.err = true) ∧ causeOut s = s.cause

/-- R149: the display form: two digits a byte, the high nibble first, bytes in order, from the sixteen-letter alphabet.
That reading it back gives the bytes is not in R149, which leaves parsing out: it rests on the `tag=` operand of R68 and on
the model's reading of its digits (log entry 10). -/
def Obligations.DisplayFormOfADigest : Prop :=
  ∀ t : List Byte, (hexstr t).length = 2 * t.length ∧ (∀ c ∈ hexstr t, c ∈ hexAlphabet) ∧ unhex (hexstr t) = t ∧
    ∀ j, j < t.length → (hexstr t).getD (2 * j) 'x' = hexAlphabet.getD ((t.getD j 0).toNat / 16) 'x' ∧
      (hexstr t).getD (2 * j + 1) 'x' = hexAlphabet.getD ((t.getD j 0).toNat % 16) 'x'

/-! ### Host sequences -/

/-- What the spec derives as R85, the block-sequence law. In phase ACTIVE, UPDATE x takes H through the whole blocks
of the pending bytes followed by x, leaves the rest pending, adds len(x) to COUNT mod 2^64, and changes nothing else
the host can see. -/
def Obligations.BlockSequenceLaw : Prop :=
  ∀ (x : List Byte) (s : State), s.phase = .active → ∃ t, runEvents (updateSeq x) s = .next t ∧
    t.h = chainBlocks ((s.pending ++ x).length / 64) s.h (s.pending ++ x) ∧
    t.pending = (s.pending ++ x).drop (64 * ((s.pending ++ x).length / 64)) ∧
    t.blen.toNat = (s.pending ++ x).length % 64 ∧ t.count.toNat = (s.count.toNat + x.length) % 2 ^ 64 ∧
    t.phase = .active ∧ t.err = s.err ∧ t.cause = s.cause ∧ t.host = s.host

/-- R155 (streaming equivalence): however a message is cut into UPDATEs, empty ones among them, the run is the same as
that of one UPDATE of the whole, with whatever follows. -/
def Obligations.UpdatesMayBeSplitAnywhere : Prop :=
  ∀ (parts : List (List Byte)) (after : List HostEvent) (s : State),
    runEvents (parts.flatMap updateSeq ++ after) s = runEvents (updateSeq parts.flatten ++ after) s

/-- R155, faults: in phase DONE a non-empty UPDATE changes nothing but the recorded fault; an empty one issues
nothing. -/
def Obligations.UpdateAfterFinalizeOnlyRecordsTheFault : Prop :=
  ∀ (x : List Byte) (s : State), s.phase = .done →
    (x ≠ [] → ∃ t, runEvents (updateSeq x) s = .next t ∧ FaultTaken 1 s t) ∧
    (x = [] → runEvents (updateSeq x) s = .next s)

/-- R158: DIGEST msg raises no fault, for every msg and from any state of the engine; it ends with `done` and 16 bytes,
which are md5(msg). `md5` is defined by R157 for fewer than 2^61 bytes; that is the premise of the last clause. -/
def Obligations.DigestReturnsMd5 : Prop :=
  ∀ (msg : List Byte) (s : State), ∃ t, runEvents (digestSeq msg) s = .next t ∧
    t.err = s.err ∧ t.cause = s.cause ∧ t.host = s.host ∧ doneOut t = 1 ∧ (rdDigest t).length = 16 ∧
    (msg.length < 2 ^ 61 → rdDigest t = md5 msg)

/-- What the spec derives in R157, second part: RESUME with tag t and a count c that is a multiple of 64, UPDATE x and
FINALIZE leave `ser(chain(deser(t), x ‖ pad(c + len(x))))`. -/
def Obligations.ResumeContinuesTheChain : Prop :=
  ∀ (t x : List Byte) (c : BitVec 64) (s : State), t.length = 16 → c.toNat % 64 = 0 → ∃ u,
    runEvents (issueOf (.resume (le128 t) c) :: (updateSeq x ++ [issueOf .finalize])) s = .next u ∧
    rdDigest u = ser (chain (deser t) (x ++ pad (c.toNat + x.length))) ∧ doneOut u = 1

/-- R162: correctness of FORGE. For every key of the stated length, the forged tag, computed from the tag alone on any
engine, is the tag NAIVE_MAC gives the forged message under the key on any engine; the three engines are three
instances, and the size is the premise of R162. -/
def Obligations.ForgedTagVerifies : Prop :=
  ∀ (key known appended : List Byte) (s s' s'' u : State),
    (key ++ known).length + (pad (key ++ known).length).length + appended.length < 2 ^ 61 →
    runEvents (naiveMacSeq key known) s = .next u →
    ∃ v w, runEvents (forgeSeq (rdDigest u) key.length known appended) s' = .next v ∧
      runEvents (naiveMacSeq key (forgedMessage key.length known appended)) s'' = .next w ∧
      rdDigest v = rdDigest w ∧ doneOut v = 1 ∧ doneOut w = 1

/-- R163: the forged message is `known ‖ glue ‖ appended`, the glue starts with 0x80 and ends with the eight bytes of
the bit length 8·(key_length + len(known)) (spec/90_conflicts.md C1), and the count FORGE gives to RESUME is a
multiple of 64 (R161). -/
def Obligations.ForgedMessageHasTheStatedForm : Prop :=
  ∀ (keyLength : Nat) (known appended : List Byte), ∃ middle : List Byte,
    forgedMessage keyLength known appended =
      known ++ ([0x80] ++ middle ++ bytes64 (BitVec.ofNat 64 (8 * (keyLength + known.length)))) ++ appended ∧
    glue (keyLength + known.length) =
      [0x80] ++ middle ++ bytes64 (BitVec.ofNat 64 (8 * (keyLength + known.length))) ∧
    (∀ b ∈ middle, b = 0) ∧ forgeCount keyLength known % 64 = 0
end

