-- ==== Sys2Proof/Laws/Encoding.lean ====
section
/-! SUPPORT. The fields of a command word put together from its fields (R61), one lemma per field. -/

namespace Sys2Proof

variable (count : BitVec 64) (tag : BitVec 128) (byte op : Byte)

theorem op_commandWord : (commandWord count tag byte op).op = op := by
  apply BitVec.eq_of_getLsbD_eq
  intro i hi
  simp only [CommandWord.op, commandWord, BitVec.getLsbD_append, BitVec.getLsbD_extractLsb', hi]
  simp [hi]

theorem byte_commandWord : (commandWord count tag byte op).byte = byte := by
  apply BitVec.eq_of_getLsbD_eq
  intro i hi
  simp only [CommandWord.byte, commandWord, BitVec.getLsbD_append, BitVec.getLsbD_extractLsb', hi]
  simp [hi]

theorem tag_commandWord : (commandWord count tag byte op).tag = tag := by
  apply BitVec.eq_of_getLsbD_eq
  intro i hi
  simp only [CommandWord.tag, commandWord, BitVec.getLsbD_append, BitVec.getLsbD_extractLsb', hi]
  have h1 : ¬ (16 + i < 8) := by omega
  have h2 : ¬ (16 + i - 8 < 8) := by omega
  have h3 : 16 + i - 8 - 8 = i := by omega
  simp [h1, h2, h3, hi]

theorem count_commandWord : (commandWord count tag byte op).count = count := by
  apply BitVec.eq_of_getLsbD_eq
  intro i hi
  simp only [CommandWord.count, commandWord, BitVec.getLsbD_append, BitVec.getLsbD_extractLsb', hi]
  have h1 : ¬ (144 + i < 8) := by omega
  have h2 : ¬ (144 + i - 8 < 8) := by omega
  have h3 : ¬ (144 + i - 8 - 8 < 128) := by omega
  have h4 : 144 + i - 8 - 8 - 128 = i := by omega
  simp [h1, h2, h3, h4]

end Sys2Proof
end

