-- ==== Sys2Proof/Laws/Memory.lean ====
section
/-! SUPPORT. The laws of BUF: what a read sees after a write, and that a write keeps the canonical form. -/

namespace Sys2Proof.Machine

@[simp] theorem Memory.readByte_nil (a : Nat) : Memory.readByte [] a = unwrittenByte := rfl

theorem Memory.readByte_cons (k : Nat) (b : Byte) (m : Memory) (a : Nat) :
    Memory.readByte ((k, b) :: m) a = if k = a then b else Memory.readByte m a := rfl

/-- An address no entry names reads as the unwritten byte. -/
theorem Memory.readByte_of_forall_ne {m : Memory} {a : Nat} (h : ∀ c ∈ m, c.1 ≠ a) :
    m.readByte a = unwrittenByte := by
  induction m with
  | nil => rfl
  | cons c m ih =>
    obtain ⟨k, b⟩ := c
    rw [readByte_cons, if_neg (h (k, b) (by simp)), ih fun c hc => h c (by simp [hc])]

theorem Memory.readByte_erase (m : Memory) (a b : Nat) :
    (m.erase a).readByte b = if b = a then unwrittenByte else m.readByte b := by
  induction m with
  | nil => simp [Memory.erase]
  | cons c m ih =>
    obtain ⟨k, v⟩ := c
    simp only [Memory.erase] at ih ⊢
    by_cases hk : k = a
    · subst hk
      rw [List.filter_cons_of_neg (by simp), ih, readByte_cons]
      split <;> simp_all [eq_comm]
    · rw [List.filter_cons_of_pos (by simpa using hk), readByte_cons, readByte_cons, ih]
      split <;> simp_all

theorem Memory.readByte_insertCell {m : Memory} {a : Nat} (h : ∀ c ∈ m, c.1 ≠ a) (v : Byte) (b : Nat) :
    (m.insertCell a v).readByte b = if b = a then v else m.readByte b := by
  induction m with
  | nil => simp [Memory.insertCell, readByte_cons, eq_comm]
  | cons c m ih =>
    obtain ⟨k, w⟩ := c
    have hk : k ≠ a := h (k, w) (by simp)
    have ih := ih fun c hc => h c (by simp [hc])
    simp only [Memory.insertCell]
    split
    · simp only [readByte_cons, eq_comm]
    · rw [readByte_cons, readByte_cons, ih]
      by_cases hb : k = b
      · subst hb; simp [hk]
      · simp [hb]

theorem Memory.erase_ne (m : Memory) (a : Nat) : ∀ c ∈ m.erase a, c.1 ≠ a := by
  intro c hc
  simpa using (List.mem_filter.1 hc).2

/-- What any address reads as after a write: the byte written there, every other byte as before. -/
theorem Memory.readByte_writeByte (m : Memory) (a : Nat) (v : Byte) (b : Nat) :
    (m.writeByte a v).readByte b = if b = a then v else m.readByte b := by
  unfold Memory.writeByte
  split
  · next hv => rw [readByte_erase, hv]
  · rw [readByte_insertCell (m.erase_ne a), readByte_erase]
    split <;> rfl

@[simp] theorem Memory.readByte_writeByte_same (m : Memory) (a : Nat) (v : Byte) :
    (m.writeByte a v).readByte a = v := by
  simp [readByte_writeByte]

theorem Memory.readByte_writeByte_other (m : Memory) {a b : Nat} (v : Byte) (h : b ≠ a) :
    (m.writeByte a v).readByte b = m.readByte b := by
  simp [readByte_writeByte, h]

/-- `Memory.wf` as a proposition. -/
theorem Memory.wf_iff (m : Memory) :
    m.wf = true ↔ m.Pairwise (fun x y => x.1 < y.1) ∧ ∀ c ∈ m, c.1 < 64 ∧ c.2 ≠ unwrittenByte := by
  simp [Memory.wf]

@[simp] theorem Memory.wf_nil : Memory.wf [] = true := by decide

theorem Memory.wf_erase {m : Memory} (h : m.wf = true) (a : Nat) : (m.erase a).wf = true := by
  rw [wf_iff] at h ⊢
  exact ⟨h.1.filter _, fun c hc => h.2 c (List.mem_filter.1 hc).1⟩

theorem Memory.mem_insertCell {m : Memory} {a : Nat} {v : Byte} {c : Host.Cell} :
    c ∈ m.insertCell a v ↔ c = (a, v) ∨ c ∈ m := by
  induction m with
  | nil => simp [Memory.insertCell]
  | cons x m ih =>
    obtain ⟨k, b⟩ := x
    simp only [Memory.insertCell]
    split
    · simp
    · simp only [List.mem_cons, ih]
      tauto

theorem Memory.pairwise_insertCell {m : Memory} (h : m.Pairwise fun x y => x.1 < y.1) {a : Nat}
    (ha : ∀ c ∈ m, c.1 ≠ a) (v : Byte) : (m.insertCell a v).Pairwise fun x y => x.1 < y.1 := by
  induction m with
  | nil => simp [Memory.insertCell]
  | cons x m ih =>
    obtain ⟨k, b⟩ := x
    rw [List.pairwise_cons] at h
    have hk : k ≠ a := ha (k, b) (by simp)
    have ih := ih h.2 fun c hc => ha c (by simp [hc])
    simp only [Memory.insertCell]
    split
    · next hlt =>
      refine List.pairwise_cons.2 ⟨fun c hc => ?_, List.pairwise_cons.2 h⟩
      rcases List.mem_cons.1 hc with rfl | hc
      · exact hlt
      · exact lt_trans hlt (h.1 c hc)
    · refine List.pairwise_cons.2 ⟨fun c hc => ?_, ih⟩
      rcases mem_insertCell.1 hc with rfl | hc
      · show k < a
        omega
      · exact h.1 c hc

/-- A write inside the 64 cells keeps the canonical form. -/
theorem Memory.wf_writeByte {m : Memory} (h : m.wf = true) {a : Nat} (ha : a < 64) (v : Byte) :
    (m.writeByte a v).wf = true := by
  unfold Memory.writeByte
  split
  · exact wf_erase h a
  · next hv =>
    have he := (wf_iff _).1 (wf_erase h a)
    refine (wf_iff _).2 ⟨pairwise_insertCell he.1 (m.erase_ne a) v, fun c hc => ?_⟩
    rcases mem_insertCell.1 hc with rfl | hc
    · exact ⟨ha, hv⟩
    · exact he.2 c hc

@[simp] theorem Memory.length_prefixBytes (m : Memory) (n : Nat) : (m.prefixBytes n).length = n := by
  simp [Memory.prefixBytes]

theorem Memory.getD_prefixBytes (m : Memory) {n j : Nat} (h : j < n) (d : Byte) :
    (m.prefixBytes n).getD j d = m.readByte j := by
  simp [Memory.prefixBytes, List.getD, h]

theorem Memory.prefixBytes_succ (m : Memory) (n : Nat) :
    m.prefixBytes (n + 1) = m.prefixBytes n ++ [m.readByte n] := by
  simp [Memory.prefixBytes, List.range_succ]

/-- A write at or above n does not show in the first n bytes. -/
theorem Memory.prefixBytes_writeByte_of_le (m : Memory) {n a : Nat} (h : n ≤ a) (v : Byte) :
    (m.writeByte a v).prefixBytes n = m.prefixBytes n := by
  simp only [Memory.prefixBytes, List.map_inj_left, List.mem_range]
  intro b hb
  exact readByte_writeByte_other m v (by omega)

/-- Pushing at address n appends to the first n bytes. -/
theorem Memory.prefixBytes_succ_writeByte (m : Memory) (n : Nat) (v : Byte) :
    (m.writeByte n v).prefixBytes (n + 1) = m.prefixBytes n ++ [v] := by
  rw [prefixBytes_succ, prefixBytes_writeByte_of_le m le_rfl, readByte_writeByte_same]

end Sys2Proof.Machine
end

