-- ==== Sys2Proof/Laws/State.lean ====
section
/-! SUPPORT. One lemma per field per write of the state, true by rfl, so that no proof unfolds a record update. -/

namespace Sys2Proof.Machine

variable (s : State)

/-! ### setH -/
@[simp] theorem State.setH_h (v : Words4) : (s.setH v).h = v := (rfl)
@[simp] theorem State.setH_buf (v : Words4) : (s.setH v).buf = s.buf := (rfl)
@[simp] theorem State.setH_blen (v : Words4) : (s.setH v).blen = s.blen := (rfl)
@[simp] theorem State.setH_count (v : Words4) : (s.setH v).count = s.count := (rfl)
@[simp] theorem State.setH_phase (v : Words4) : (s.setH v).phase = s.phase := (rfl)
@[simp] theorem State.setH_err (v : Words4) : (s.setH v).err = s.err := (rfl)
@[simp] theorem State.setH_cause (v : Words4) : (s.setH v).cause = s.cause := (rfl)
@[simp] theorem State.setH_hidden (v : Words4) : (s.setH v).hidden = s.hidden := (rfl)
@[simp] theorem State.setH_fresh (v : Words4) : (s.setH v).fresh = s.fresh := (rfl)
@[simp] theorem State.setH_host (v : Words4) : (s.setH v).host = s.host := (rfl)

/-! ### setBufByte -/
@[simp] theorem State.setBufByte_h (a : Nat) (v : Byte) : (s.setBufByte a v).h = s.h := (rfl)
@[simp] theorem State.setBufByte_buf (a : Nat) (v : Byte) : (s.setBufByte a v).buf = s.buf.writeByte a v := (rfl)
@[simp] theorem State.setBufByte_blen (a : Nat) (v : Byte) : (s.setBufByte a v).blen = s.blen := (rfl)
@[simp] theorem State.setBufByte_count (a : Nat) (v : Byte) : (s.setBufByte a v).count = s.count := (rfl)
@[simp] theorem State.setBufByte_phase (a : Nat) (v : Byte) : (s.setBufByte a v).phase = s.phase := (rfl)
@[simp] theorem State.setBufByte_err (a : Nat) (v : Byte) : (s.setBufByte a v).err = s.err := (rfl)
@[simp] theorem State.setBufByte_cause (a : Nat) (v : Byte) : (s.setBufByte a v).cause = s.cause := (rfl)
@[simp] theorem State.setBufByte_hidden (a : Nat) (v : Byte) : (s.setBufByte a v).hidden = s.hidden := (rfl)
@[simp] theorem State.setBufByte_fresh (a : Nat) (v : Byte) : (s.setBufByte a v).fresh = s.fresh := (rfl)
@[simp] theorem State.setBufByte_host (a : Nat) (v : Byte) : (s.setBufByte a v).host = s.host := (rfl)

/-! ### setBlen -/
@[simp] theorem State.setBlen_h (v : BitVec 6) : (s.setBlen v).h = s.h := (rfl)
@[simp] theorem State.setBlen_buf (v : BitVec 6) : (s.setBlen v).buf = s.buf := (rfl)
@[simp] theorem State.setBlen_blen (v : BitVec 6) : (s.setBlen v).blen = v := (rfl)
@[simp] theorem State.setBlen_count (v : BitVec 6) : (s.setBlen v).count = s.count := (rfl)
@[simp] theorem State.setBlen_phase (v : BitVec 6) : (s.setBlen v).phase = s.phase := (rfl)
@[simp] theorem State.setBlen_err (v : BitVec 6) : (s.setBlen v).err = s.err := (rfl)
@[simp] theorem State.setBlen_cause (v : BitVec 6) : (s.setBlen v).cause = s.cause := (rfl)
@[simp] theorem State.setBlen_hidden (v : BitVec 6) : (s.setBlen v).hidden = s.hidden := (rfl)
@[simp] theorem State.setBlen_fresh (v : BitVec 6) : (s.setBlen v).fresh = s.fresh := (rfl)
@[simp] theorem State.setBlen_host (v : BitVec 6) : (s.setBlen v).host = s.host := (rfl)

/-! ### setCount -/
@[simp] theorem State.setCount_h (v : BitVec 64) : (s.setCount v).h = s.h := (rfl)
@[simp] theorem State.setCount_buf (v : BitVec 64) : (s.setCount v).buf = s.buf := (rfl)
@[simp] theorem State.setCount_blen (v : BitVec 64) : (s.setCount v).blen = s.blen := (rfl)
@[simp] theorem State.setCount_count (v : BitVec 64) : (s.setCount v).count = v := (rfl)
@[simp] theorem State.setCount_phase (v : BitVec 64) : (s.setCount v).phase = s.phase := (rfl)
@[simp] theorem State.setCount_err (v : BitVec 64) : (s.setCount v).err = s.err := (rfl)
@[simp] theorem State.setCount_cause (v : BitVec 64) : (s.setCount v).cause = s.cause := (rfl)
@[simp] theorem State.setCount_hidden (v : BitVec 64) : (s.setCount v).hidden = s.hidden := (rfl)
@[simp] theorem State.setCount_fresh (v : BitVec 64) : (s.setCount v).fresh = s.fresh := (rfl)
@[simp] theorem State.setCount_host (v : BitVec 64) : (s.setCount v).host = s.host := (rfl)

/-! ### setPhase -/
@[simp] theorem State.setPhase_h (v : Phase) : (s.setPhase v).h = s.h := (rfl)
@[simp] theorem State.setPhase_buf (v : Phase) : (s.setPhase v).buf = s.buf := (rfl)
@[simp] theorem State.setPhase_blen (v : Phase) : (s.setPhase v).blen = s.blen := (rfl)
@[simp] theorem State.setPhase_count (v : Phase) : (s.setPhase v).count = s.count := (rfl)
@[simp] theorem State.setPhase_phase (v : Phase) : (s.setPhase v).phase = v := (rfl)
@[simp] theorem State.setPhase_err (v : Phase) : (s.setPhase v).err = s.err := (rfl)
@[simp] theorem State.setPhase_cause (v : Phase) : (s.setPhase v).cause = s.cause := (rfl)
@[simp] theorem State.setPhase_hidden (v : Phase) : (s.setPhase v).hidden = s.hidden := (rfl)
@[simp] theorem State.setPhase_fresh (v : Phase) : (s.setPhase v).fresh = s.fresh := (rfl)
@[simp] theorem State.setPhase_host (v : Phase) : (s.setPhase v).host = s.host := (rfl)

/-! ### setHidden -/
@[simp] theorem State.setHidden_h (x : Hidden) : (s.setHidden x).h = s.h := (rfl)
@[simp] theorem State.setHidden_buf (x : Hidden) : (s.setHidden x).buf = s.buf := (rfl)
@[simp] theorem State.setHidden_blen (x : Hidden) : (s.setHidden x).blen = s.blen := (rfl)
@[simp] theorem State.setHidden_count (x : Hidden) : (s.setHidden x).count = s.count := (rfl)
@[simp] theorem State.setHidden_phase (x : Hidden) : (s.setHidden x).phase = s.phase := (rfl)
@[simp] theorem State.setHidden_err (x : Hidden) : (s.setHidden x).err = s.err := (rfl)
@[simp] theorem State.setHidden_cause (x : Hidden) : (s.setHidden x).cause = s.cause := (rfl)
@[simp] theorem State.setHidden_hidden (x : Hidden) : (s.setHidden x).hidden = x := (rfl)
@[simp] theorem State.setHidden_fresh (x : Hidden) : (s.setHidden x).fresh = s.fresh := (rfl)
@[simp] theorem State.setHidden_host (x : Hidden) : (s.setHidden x).host = s.host := (rfl)

/-! ### setFresh -/
@[simp] theorem State.setFresh_h (n : Nat) : (s.setFresh n).h = s.h := (rfl)
@[simp] theorem State.setFresh_buf (n : Nat) : (s.setFresh n).buf = s.buf := (rfl)
@[simp] theorem State.setFresh_blen (n : Nat) : (s.setFresh n).blen = s.blen := (rfl)
@[simp] theorem State.setFresh_count (n : Nat) : (s.setFresh n).count = s.count := (rfl)
@[simp] theorem State.setFresh_phase (n : Nat) : (s.setFresh n).phase = s.phase := (rfl)
@[simp] theorem State.setFresh_err (n : Nat) : (s.setFresh n).err = s.err := (rfl)
@[simp] theorem State.setFresh_cause (n : Nat) : (s.setFresh n).cause = s.cause := (rfl)
@[simp] theorem State.setFresh_hidden (n : Nat) : (s.setFresh n).hidden = s.hidden := (rfl)
@[simp] theorem State.setFresh_fresh (n : Nat) : (s.setFresh n).fresh = n := (rfl)
@[simp] theorem State.setFresh_host (n : Nat) : (s.setFresh n).host = s.host := (rfl)

/-! ### resetEngine -/
@[simp] theorem resetEngine_h : (resetEngine s).h = iv := (rfl)
@[simp] theorem resetEngine_buf : (resetEngine s).buf = [] := (rfl)
@[simp] theorem resetEngine_blen : (resetEngine s).blen = 0 := (rfl)
@[simp] theorem resetEngine_count : (resetEngine s).count = 0 := (rfl)
@[simp] theorem resetEngine_phase : (resetEngine s).phase = .active := (rfl)
@[simp] theorem resetEngine_err : (resetEngine s).err = false := (rfl)
@[simp] theorem resetEngine_cause : (resetEngine s).cause = 0 := (rfl)
@[simp] theorem resetEngine_hidden : (resetEngine s).hidden = ⟨⟨0, 0, 0, 0⟩, 0⟩ := (rfl)
@[simp] theorem resetEngine_fresh : (resetEngine s).fresh = s.fresh := (rfl)
@[simp] theorem resetEngine_host : (resetEngine s).host = s.host := (rfl)

/-! ### present -/
@[simp] theorem present_h (e : HostEvent) : (present e s).h = s.h := (rfl)
@[simp] theorem present_buf (e : HostEvent) : (present e s).buf = s.buf := (rfl)
@[simp] theorem present_blen (e : HostEvent) : (present e s).blen = s.blen := (rfl)
@[simp] theorem present_count (e : HostEvent) : (present e s).count = s.count := (rfl)
@[simp] theorem present_phase (e : HostEvent) : (present e s).phase = s.phase := (rfl)
@[simp] theorem present_err (e : HostEvent) : (present e s).err = s.err := (rfl)
@[simp] theorem present_cause (e : HostEvent) : (present e s).cause = s.cause := (rfl)
@[simp] theorem present_hidden (e : HostEvent) : (present e s).hidden = s.hidden := (rfl)
@[simp] theorem present_fresh (e : HostEvent) : (present e s).fresh = s.fresh := (rfl)
@[simp] theorem present_host (e : HostEvent) : (present e s).host = e :: s.host := (rfl)

/-! ### raiseFault: every field but ERR and CAUSE -/
@[simp] theorem raiseFault_h (q : FaultCause) : (raiseFault q s).h = s.h := by
  unfold raiseFault recordFault; split <;> rfl
@[simp] theorem raiseFault_buf (q : FaultCause) : (raiseFault q s).buf = s.buf := by
  unfold raiseFault recordFault; split <;> rfl
@[simp] theorem raiseFault_blen (q : FaultCause) : (raiseFault q s).blen = s.blen := by
  unfold raiseFault recordFault; split <;> rfl
@[simp] theorem raiseFault_count (q : FaultCause) : (raiseFault q s).count = s.count := by
  unfold raiseFault recordFault; split <;> rfl
@[simp] theorem raiseFault_phase (q : FaultCause) : (raiseFault q s).phase = s.phase := by
  unfold raiseFault recordFault; split <;> rfl
@[simp] theorem raiseFault_hidden (q : FaultCause) : (raiseFault q s).hidden = s.hidden := by
  unfold raiseFault recordFault; split <;> rfl
@[simp] theorem raiseFault_fresh (q : FaultCause) : (raiseFault q s).fresh = s.fresh := by
  unfold raiseFault recordFault; split <;> rfl
@[simp] theorem raiseFault_host (q : FaultCause) : (raiseFault q s).host = s.host := by
  unfold raiseFault recordFault; split <;> rfl

@[simp] theorem raiseFault_err (q : FaultCause) : (raiseFault q s).err = true := by
  unfold raiseFault recordFault; split <;> simp_all

/-- The first fault's code is kept (R177). -/
theorem raiseFault_cause (q : FaultCause) : (raiseFault q s).cause = if s.err then s.cause else q.code := by
  unfold raiseFault recordFault; split <;> rfl

/-- Two states are equal when their fields are. -/
theorem State.eq_of_fields {s t : State} (h1 : s.h = t.h) (h2 : s.buf = t.buf) (h3 : s.blen = t.blen)
    (h4 : s.count = t.count) (h5 : s.phase = t.phase) (h6 : s.err = t.err) (h7 : s.cause = t.cause)
    (h8 : s.hidden = t.hidden) (h9 : s.fresh = t.fresh) (h10 : s.host = t.host) : s = t := by
  cases s; cases t; simp_all

end Sys2Proof.Machine
end

