-- ==== Sys2Proof/Laws/Ops.lean ====
section
/-! SUPPORT. What each shared operation can change: the frames of STEP, COMPRESS, PUSH and PADSEQ, field by field, the
two shapes of PUSH, and what one event makes of a state. -/

namespace Sys2Proof.Machine

variable (s : State)

/-! ### STEP -/

@[simp] theorem stepOps_zero (m : List Word) (x : Hidden) : stepOps m 0 x = x := rfl

theorem stepOps_add (m : List Word) (n k : Nat) (x : Hidden) :
    stepOps m (n + k) x = stepOps m k (stepOps m n x) := by
  induction n generalizing x with
  | zero => simp
  | succ n ih => rw [Nat.succ_add, stepOps, stepOps, ih]

/-- The last of n + 1 STEPs runs on what the first n left. -/
theorem stepOps_succ (m : List Word) (n : Nat) (x : Hidden) :
    stepOps m (n + 1) x = stepOp m (stepOps m n x) := by
  rw [stepOps_add]; rfl

/-! ### COMPRESS: H, the hidden registers and the counter, and nothing else -/

@[simp] theorem compressOp_buf : (compressOp s).buf = s.buf := by
  rw [compressOp, State.setFresh_buf, State.setHidden_buf, accumOp, State.setH_buf]
@[simp] theorem compressOp_blen : (compressOp s).blen = s.blen := by
  rw [compressOp, State.setFresh_blen, State.setHidden_blen, accumOp, State.setH_blen]
@[simp] theorem compressOp_count : (compressOp s).count = s.count := by
  rw [compressOp, State.setFresh_count, State.setHidden_count, accumOp, State.setH_count]
@[simp] theorem compressOp_phase : (compressOp s).phase = s.phase := by
  rw [compressOp, State.setFresh_phase, State.setHidden_phase, accumOp, State.setH_phase]
@[simp] theorem compressOp_err : (compressOp s).err = s.err := by
  rw [compressOp, State.setFresh_err, State.setHidden_err, accumOp, State.setH_err]
@[simp] theorem compressOp_cause : (compressOp s).cause = s.cause := by
  rw [compressOp, State.setFresh_cause, State.setHidden_cause, accumOp, State.setH_cause]
@[simp] theorem compressOp_host : (compressOp s).host = s.host := by
  rw [compressOp, State.setFresh_host, State.setHidden_host, accumOp, State.setH_host]

/-- COMPRESS adds into H the working registers that 64 STEPs make of it (R108). -/
theorem compressOp_h : (compressOp s).h = s.h.addLanes (stepOps (ldm s) 64 (loadHidden s.h)).work := by
  rw [compressOp, State.setFresh_h, State.setHidden_h, accumOp, State.setH_h]

/-! ### PUSH -/

/-- PUSH below the end of the block: the byte is stored and BLEN counts it (R84). -/
theorem pushByte_of_ne (v : Byte) (h : s.blen ≠ 63) :
    pushByte v s = (s.setBufByte s.blen.toNat v).setBlen (s.blen + 1) := by
  rw [pushByte, if_neg h]

/-- PUSH of the 64th byte: COMPRESS runs and the buffer is empty (R84). -/
theorem pushByte_of_eq (v : Byte) (h : s.blen = 63) :
    pushByte v s = (compressOp (s.setBufByte 63 v)).setBlen 0 := by
  rw [pushByte, if_pos h, h]; rfl

theorem pushByte_cases (v : Byte) :
    (s.blen ≠ 63 ∧ pushByte v s = (s.setBufByte s.blen.toNat v).setBlen (s.blen + 1)) ∨
    (s.blen = 63 ∧ pushByte v s = (compressOp (s.setBufByte 63 v)).setBlen 0) := by
  by_cases h : s.blen = 63
  · exact .inr ⟨h, pushByte_of_eq s v h⟩
  · exact .inl ⟨h, pushByte_of_ne s v h⟩

/-- The fill count goes round the 64 cells. -/
@[simp] theorem pushByte_blen (v : Byte) : (pushByte v s).blen = s.blen + 1 := by
  rcases pushByte_cases s v with ⟨h, e⟩ | ⟨h, e⟩
  · simp [e]
  · simp [e, h]

@[simp] theorem pushByte_buf (v : Byte) : (pushByte v s).buf = s.buf.writeByte s.blen.toNat v := by
  rcases pushByte_cases s v with ⟨h, e⟩ | ⟨h, e⟩ <;> simp [e, h]

@[simp] theorem pushByte_count (v : Byte) : (pushByte v s).count = s.count := by
  rcases pushByte_cases s v with ⟨h, e⟩ | ⟨h, e⟩ <;> simp [e]
@[simp] theorem pushByte_phase (v : Byte) : (pushByte v s).phase = s.phase := by
  rcases pushByte_cases s v with ⟨h, e⟩ | ⟨h, e⟩ <;> simp [e]
@[simp] theorem pushByte_err (v : Byte) : (pushByte v s).err = s.err := by
  rcases pushByte_cases s v with ⟨h, e⟩ | ⟨h, e⟩ <;> simp [e]
@[simp] theorem pushByte_cause (v : Byte) : (pushByte v s).cause = s.cause := by
  rcases pushByte_cases s v with ⟨h, e⟩ | ⟨h, e⟩ <;> simp [e]
@[simp] theorem pushByte_host (v : Byte) : (pushByte v s).host = s.host := by
  rcases pushByte_cases s v with ⟨h, e⟩ | ⟨h, e⟩ <;> simp [e]

@[simp] theorem pushBytes_nil : pushBytes [] s = s := rfl

@[simp] theorem pushBytes_cons (v : Byte) (vs : List Byte) : pushBytes (v :: vs) s = pushBytes vs (pushByte v s) := rfl

theorem pushBytes_append (vs ws : List Byte) : pushBytes (vs ++ ws) s = pushBytes ws (pushBytes vs s) := by
  simp [pushBytes, List.foldl_append]

@[simp] theorem pushBytes_count (vs : List Byte) : (pushBytes vs s).count = s.count := by
  induction vs generalizing s with
  | nil => rfl
  | cons v vs ih => simp [ih]
@[simp] theorem pushBytes_phase (vs : List Byte) : (pushBytes vs s).phase = s.phase := by
  induction vs generalizing s with
  | nil => rfl
  | cons v vs ih => simp [ih]
@[simp] theorem pushBytes_err (vs : List Byte) : (pushBytes vs s).err = s.err := by
  induction vs generalizing s with
  | nil => rfl
  | cons v vs ih => simp [ih]
@[simp] theorem pushBytes_cause (vs : List Byte) : (pushBytes vs s).cause = s.cause := by
  induction vs generalizing s with
  | nil => rfl
  | cons v vs ih => simp [ih]
@[simp] theorem pushBytes_host (vs : List Byte) : (pushBytes vs s).host = s.host := by
  induction vs generalizing s with
  | nil => rfl
  | cons v vs ih => simp [ih]

theorem pushBytes_blen (vs : List Byte) : (pushBytes vs s).blen = s.blen + BitVec.ofNat 6 vs.length := by
  induction vs generalizing s with
  | nil => simp
  | cons v vs ih =>
    rw [pushBytes_cons, ih, pushByte_blen, List.length_cons, BitVec.add_assoc, Nat.add_comm vs.length 1,
      BitVec.ofNat_add]
    rfl

theorem pushByte_wf (v : Byte) (h : s.buf.wf = true) : (pushByte v s).buf.wf = true := by
  rw [pushByte_buf]
  exact Memory.wf_writeByte h s.blen.isLt v

theorem pushBytes_wf (vs : List Byte) (h : s.buf.wf = true) : (pushBytes vs s).buf.wf = true := by
  induction vs generalizing s with
  | nil => exact h
  | cons v vs ih => exact ih _ (pushByte_wf s v h)

/-! ### PADSEQ -/

/-- PADSEQ is the PUSH of one sequence (R133). -/
theorem padSeq_eq : padSeq s = pushBytes (padBytes s.blen.toNat s.count) s := by
  simp [padSeq, padBytes, pushBytes_append]

@[simp] theorem padSeq_count : (padSeq s).count = s.count := by simp [padSeq_eq]
@[simp] theorem padSeq_phase : (padSeq s).phase = s.phase := by simp [padSeq_eq]
@[simp] theorem padSeq_err : (padSeq s).err = s.err := by simp [padSeq_eq]
@[simp] theorem padSeq_cause : (padSeq s).cause = s.cause := by simp [padSeq_eq]
@[simp] theorem padSeq_host : (padSeq s).host = s.host := by simp [padSeq_eq]

theorem padSeq_wf (h : s.buf.wf = true) : (padSeq s).buf.wf = true := by
  rw [padSeq_eq]
  exact pushBytes_wf s _ h

/-! ### One event -/

@[simp] theorem nextEvent_present (e : HostEvent) : nextEvent (present e s) = some (e, s) := rfl

theorem nextEvent_none (h : s.host = []) : nextEvent s = none := by
  simp [nextEvent, h]

theorem nextEvent_some {e : HostEvent} {es : List HostEvent} (h : s.host = e :: es) :
    nextEvent s = some (e, { s with host := es }) := by
  simp [nextEvent, h]

/-- Everything one step can be, by the host's next event. -/
theorem step_cases :
    (s.host = [] ∧ step s = .next s) ∨
    (∃ es, s.host = .reset :: es ∧ step s = .next (resetEngine { s with host := es })) ∨
    (∃ cw es i, s.host = .command cw :: es ∧ decode cw = .command i ∧ step s = exec i { s with host := es }) ∨
    (∃ cw es op, s.host = .command cw :: es ∧ decode cw = .illegal op ∧
      step s = .next (raiseFault .illegalCommand { s with host := es })) := by
  match h : s.host with
  | [] => exact .inl ⟨rfl, by simp [step, nextEvent_none s h, idle]⟩
  | .reset :: es => exact .inr (.inl ⟨es, rfl, by simp [step, nextEvent_some s h]⟩)
  | .command cw :: es =>
    refine .inr (.inr ?_)
    match hd : decode cw with
    | .command i => exact .inl ⟨cw, es, i, rfl, hd, by simp [step, nextEvent_some s h, hd]⟩
    | .illegal op => exact .inr ⟨cw, es, op, rfl, hd, by simp [step, nextEvent_some s h, hd, execIllegal]⟩

/-- Everything a command can answer: its own effect, or the recorded fault of a use after FINALIZE (R79). -/
theorem exec_cases (i : Instr) :
    (i = .nop ∧ exec i s = .next s) ∨
    (i = .init ∧ exec i s = .next { s with h := iv, blen := 0, count := 0, phase := .active }) ∨
    (∃ tag count, i = .resume tag count ∧
      exec i s = .next { s with h := deser (bytes128 tag), blen := 0, count := count, phase := .active }) ∨
    (∃ b, i = .absorb b ∧ s.phase = .active ∧ exec i s = .next (pushByte b (s.setCount (s.count + 1)))) ∨
    (i = .finalize ∧ s.phase = .active ∧ exec i s = .next ((padSeq s).setPhase .done)) ∨
    ((i = .finalize ∨ ∃ b, i = .absorb b) ∧ s.phase = .done ∧
      exec i s = .next (raiseFault .useAfterFinalize s)) := by
  cases i with
  | nop => exact .inl ⟨rfl, rfl⟩
  | init => exact .inr (.inl ⟨rfl, rfl⟩)
  | resume tag count => exact .inr (.inr (.inl ⟨tag, count, rfl, rfl⟩))
  | absorb b =>
    cases hp : s.phase with
    | active => exact .inr (.inr (.inr (.inl ⟨b, rfl, rfl, by simp [exec, execAbsorb, hp]⟩)))
    | done => exact .inr (.inr (.inr (.inr (.inr ⟨.inr ⟨b, rfl⟩, rfl, by simp [exec, execAbsorb, hp]⟩))))
  | finalize =>
    cases hp : s.phase with
    | active => exact .inr (.inr (.inr (.inr (.inl ⟨rfl, rfl, by simp [exec, execFinalize, hp]⟩))))
    | done => exact .inr (.inr (.inr (.inr (.inr ⟨.inl rfl, rfl, by simp [exec, execFinalize, hp]⟩))))

end Sys2Proof.Machine
end

