-- ==== Sys2Proof/Laws/PerInstr.lean ====
section
/-! SUPPORT. Statements made command by command. Family OpcodeField: the word the encoder writes carries the command's
opcode of R63 in `CW[7:0]`. -/

namespace Sys2Proof.Laws.OpcodeField

/-- The encoder's word has the command's opcode in its `op` field (R61, R63). -/
def Statement (i : Instr) : Prop :=
  (encode i).op = i.opcode

theorem nop : Statement .nop := op_commandWord _ _ _ _
theorem init : Statement .init := op_commandWord _ _ _ _
theorem resume (tag : BitVec 128) (count : BitVec 64) : Statement (.resume tag count) := op_commandWord _ _ _ _
theorem absorb (byte : Byte) : Statement (.absorb byte) := op_commandWord _ _ _ _
theorem finalize : Statement .finalize := op_commandWord _ _ _ _

end Sys2Proof.Laws.OpcodeField
end

