-- ==== Sys2Proof/Laws/Words.lean ====
section
/-! SUPPORT. The little-endian conversions of R11: bytes to number and back, for every length. -/

namespace Sys2Proof.Machine

@[simp] theorem length_bytesLE {w : Nat} (n : Nat) (v : BitVec w) : (bytesLE n v).length = n := by
  simp [bytesLE]

@[simp] theorem length_zeros (n : Nat) : (zeros n).length = n := by
  simp [zeros]

theorem zeros_add (m n : Nat) : zeros (m + n) = zeros m ++ zeros n := by
  simp [zeros]

/-- A byte sequence of n bytes is a number below 2^(8n). -/
theorem leSum_lt (t : List Byte) : leSum t < 2 ^ (8 * t.length) := by
  induction t with
  | nil => simp [leSum]
  | cons b t ih =>
    have := b.isLt
    rw [leSum, List.length_cons, Nat.mul_succ, Nat.pow_add]
    omega

theorem leSum_append (t u : List Byte) : leSum (t ++ u) = leSum t + 2 ^ (8 * t.length) * leSum u := by
  induction t with
  | nil => rw [List.nil_append, leSum, List.length_nil, Nat.mul_zero, Nat.pow_zero]; omega
  | cons b t ih =>
    rw [List.cons_append, leSum, leSum, ih, List.length_cons, Nat.mul_succ, Nat.pow_add]
    ring

/-- The number of the n lowest bytes of v is v mod 2^(8n). -/
theorem leSum_bytesLE {w : Nat} (v : BitVec w) (n : Nat) : leSum (bytesLE n v) = v.toNat % 2 ^ (8 * n) := by
  induction n with
  | zero => simp [bytesLE, leSum, Nat.mod_one]
  | succ n ih =>
    have hs : bytesLE (n + 1) v = bytesLE n v ++ [v.extractLsb' (8 * n) 8] := by
      simp [bytesLE, List.range_succ]
    rw [hs, leSum_append, ih, length_bytesLE]
    simp only [leSum, BitVec.extractLsb'_toNat, Nat.shiftRight_eq_div_pow, Nat.mul_zero, Nat.add_zero]
    rw [Nat.mul_succ, Nat.pow_add, Nat.mod_mul]

/-- The bytes of the number of a byte sequence are the sequence, at any width that holds it. -/
theorem bytesLE_leSum (t : List Byte) (w : Nat) (h : 8 * t.length ≤ w) :
    bytesLE t.length (BitVec.ofNat w (leSum t)) = t := by
  refine List.ext_getElem (by simp) fun j _ h2 => ?_
  have hw : leSum t < 2 ^ w := lt_of_lt_of_le (leSum_lt t) (Nat.pow_le_pow_right (by omega) h)
  simp only [bytesLE, List.getElem_map, List.getElem_range]
  apply BitVec.eq_of_toNat_eq
  rw [BitVec.extractLsb'_toNat, BitVec.toNat_ofNat, Nat.mod_eq_of_lt hw]
  clear hw h
  induction t generalizing j with
  | nil => simp at h2
  | cons b t ih =>
    have := b.isLt
    cases j with
    | zero => simp [leSum]; omega
    | succ j =>
      simp only [leSum, List.getElem_cons_succ]
      rw [← ih j (by simpa using h2) (by simpa using h2), Nat.mul_succ, Nat.add_comm (8 * j) 8, Nat.shiftRight_add]
      congr 2
      rw [Nat.shiftRight_eq_div_pow]
      omega

theorem le32_eq_leSum (b0 b1 b2 b3 : Byte) : le32 b0 b1 b2 b3 = BitVec.ofNat 32 (leSum [b0, b1, b2, b3]) := by
  rw [le32]
  congr 1
  simp only [leSum]
  ring

end Sys2Proof.Machine
end

