-- ==== Sys2Proof/Tests/Slice0.lean ====
section
/-! SUPPORT. The model's own tests, each on one step or one operation, with its expected result from spec/ (the comment
names the place), and a witness for the hypotheses of every statement of Certificates/Slice0/Obligations.lean. -/

open Sys2Proof Sys2Proof.Machine

namespace Sys2Proof.Tests

/-! ### Small states -/

/-- An engine in phase ACTIVE with n bytes 0x61 pending, from a fresh start. -/
def feeding (n : Nat) : State :=
  { State.reset with
    buf := (List.range n).map fun a => (a, 0x61), blen := BitVec.ofNat 6 n, count := BitVec.ofNat 64 n }

/-- An engine in phase DONE after a message of three bytes. -/
def finished : State :=
  { State.reset with h := ⟨0x98500190, 0xb04fd23c, 0x7d3f96d6, 0x727fe128⟩, count := 3, phase := .done }

/-- The same with a use after FINALIZE recorded. -/
def faulted : State :=
  { finished with err := true, cause := 1 }

/-- The state with one event to come. -/
def facing (e : HostEvent) (s : State) : State :=
  { s with host := [e] }

/-- What a test looks at in an outcome. -/
def after {α : Type} (f : State → α) : Host.Outcome State Fault Refusal → Option α
  | .next s => some (f s)
  | .fault _ => none
  | .refused _ => none

/-! ### Well-formed lines: an ill-formed term for each check -/

theorem test_tag_of_31_digits_is_ill_formed :
    (AsmLine.resume (List.replicate 31 '0') 64).wellFormed = false := by decide
theorem test_tag_with_upper_case_digit_is_ill_formed :
    (AsmLine.resume ('A' :: List.replicate 31 '0') 64).wellFormed = false := by decide
theorem test_count_of_65_bits_is_ill_formed :
    (AsmLine.resume (List.replicate 32 '0') (2 ^ 64)).wellFormed = false := by decide
theorem test_byte_256_is_ill_formed : (AsmLine.absorb (.number 256)).wellFormed = false := by decide
theorem test_character_outside_ascii_is_ill_formed :
    (AsmLine.absorb (.quoted (Char.ofNat 233))).wellFormed = false := by decide
theorem test_boundary_lines_are_well_formed :
    (AsmLine.resume (List.replicate 32 'f') (2 ^ 64 - 1)).wellFormed = true ∧
    (AsmLine.absorb (.number 255)).wellFormed = true ∧ (AsmLine.absorb (.quoted 'a')).wellFormed = true := by decide

/-! ### Decoding: words written out from R61 and R70 -/

/-- The all-zero word (R70). -/
theorem test_decode_nop : decode 0x0000000000000000000000000000000000000000000000000000#208 = .command .nop := by
  decide
/-- R64: every ignored bit set. -/
theorem test_decode_init :
    decode 0xffffffffffffffffffffffffffffffffffffffffffffffffff01#208 = .command .init := by decide
/-- R70: count 64, tag words D, C, B, A, byte 00, op 02. -/
theorem test_decode_resume :
    decode 0x0000000000000040727fe1287d3f96d6b04fd23c985001900002#208 =
      .command (.resume 0x727fe1287d3f96d6b04fd23c98500190 64) := by decide
/-- R70: 'a' in bits 15:8. -/
theorem test_decode_absorb :
    decode 0x0000000000000000000000000000000000000000000000006103#208 = .command (.absorb 0x61) := by decide
/-- R70. -/
theorem test_decode_finalize :
    decode 0x0000000000000000000000000000000000000000000000000004#208 = .command .finalize := by decide
/-- R65: the first and the last reserved opcode. -/
theorem test_decode_reserved :
    decode 0x0000000000000000000000000000000000000000000000000005#208 = .illegal 0x05 ∧
    decode 0x00000000000000000000000000000000000000000000000000ff#208 = .illegal 0xff := by decide
/-- R68, R70: the display form on a RESUME line gives the canonical word; a repeat count gives copies. -/
theorem test_assemble_resume_and_repeat :
    assemble [⟨.resume ['9','0','0','1','5','0','9','8','3','c','d','2','4','f','b','0',
        'd','6','9','6','3','f','7','d','2','8','e','1','7','f','7','2'] 64, 1⟩, ⟨.absorb (.quoted 'a'), 2⟩] =
      some [0x0000000000000040727fe1287d3f96d6b04fd23c985001900002#208,
        0x0000000000000000000000000000000000000000000000006103#208,
        0x0000000000000000000000000000000000000000000000006103#208] := by decide +kernel
/-- The table's own example word of FINALIZE (spec/opcode_table.json), read and run first after reset: phase DONE, and
the H of spec/95_test_vectors.md section 1. -/
theorem test_table_word_finalize :
    decodeTableWord 208 4 = some .finalize ∧
    after (fun t => (t.h, t.phase)) (step (State.reset.withFetchWord 208 4)) =
      some (⟨0xd98c1dd4, 0x04b2008f, 0x980980e9, 0x7e42f8ec⟩, .done) := by decide +kernel

/-! ### The commands (spec/95_test_vectors.md section 7) -/

theorem test_nop_in_phase_done : exec .nop finished = .next finished := rfl
/-- "usable again, ERR stays". -/
theorem test_init_after_a_fault :
    after (fun t => (t.h, t.blen, t.count, t.phase, t.err, t.cause)) (exec .init faulted) =
      some (⟨0x67452301, 0xefcdab89, 0x98badcfe, 0x10325476⟩, 0, 0, .active, true, 1) := by decide
/-- The example of R82. -/
theorem test_resume_example :
    after (fun t => (t.h, t.blen, t.count, t.phase)) (exec (.resume 0x727fe1287d3f96d6b04fd23c98500190 64) finished) =
      some (⟨0x98500190, 0xb04fd23c, 0x7d3f96d6, 0x727fe128⟩, 0, 64, .active) := by decide +kernel
/-- Section 5: the tag 00 01 ... 0f is the words 03020100, 07060504, 0b0a0908, 0f0e0d0c. -/
theorem test_resume_byte_order :
    after (fun t => (t.h, rdDigest t)) (exec (.resume 0x0f0e0d0c0b0a09080706050403020100 0) State.reset) =
      some (⟨0x03020100, 0x07060504, 0x0b0a0908, 0x0f0e0d0c⟩, [0, 1, 2, 3, 4, 5, 6, 7, 8, 9, 10, 11, 12, 13, 14, 15]) := by
  decide +kernel
/-- The 64th byte: H after the block of 64 bytes 0x61, the buffer empty. -/
theorem test_absorb_completes_the_block :
    after (fun t => (t.h, t.blen, t.count, t.phase)) (exec (.absorb 0x61) (feeding 63)) =
      some (⟨0x89d4ff56, 0x125cd962, 0x69cade33, 0x0033e325⟩, 0, 64, .active) := by decide +kernel
/-- COUNT = 2^64 - 1 wraps to 0, no fault. -/
theorem test_absorb_wraps_count :
    after (fun t => (t.buf.readByte 0, t.blen, t.count, t.err))
      (exec (.absorb 0x00) { State.reset with count := 0xffffffffffffffff }) = some (0x00, 1, 0, false) := by decide
/-- BLEN and COUNT out of step: the digest 6085e3744b62c3da9e28205a2173f4db. -/
theorem test_finalize_follows_blen_and_count :
    after (fun t => (rdDigest t, t.count))
      (exec .finalize { State.reset with h := ⟨0x03020100, 0x07060504, 0x0b0a0908, 0x0f0e0d0c⟩, count := 5 }) =
      some ([0x60, 0x85, 0xe3, 0x74, 0x4b, 0x62, 0xc3, 0xda, 0x9e, 0x28, 0x20, 0x5a, 0x21, 0x73, 0xf4, 0xdb], 5) := by decide +kernel
/-- 56 bytes 0x61, the longest padding, two blocks: the digest 3b0c8ac703f828b04c6c197006d17218 (section 6). -/
theorem test_finalize_two_blocks :
    after (fun t => (rdDigest t, t.blen, t.phase)) (exec .finalize (feeding 56)) =
      some ([0x3b, 0x0c, 0x8a, 0xc7, 0x03, 0xf8, 0x28, 0xb0, 0x4c, 0x6c, 0x19, 0x70, 0x06, 0xd1, 0x72, 0x18], 0, .done) := by
  decide +kernel

/-! ### Faults (section 7, program P4) -/

theorem test_absorb_in_phase_done_is_refused :
    exec (.absorb 0x61) finished = .next { finished with err := true, cause := 1 } := rfl
theorem test_reserved_opcode_keeps_the_first_cause :
    step (facing (.command 0x07#208) faulted) = .next faulted := rfl
theorem test_reset_clears_the_fault :
    after (fun t => (t.err, t.cause, t.phase, t.h)) (step (facing .reset faulted)) = some (false, 0, .active, iv) := by
  decide

/-! ### The round pipeline (sections 2 to 4), padding (section 6) -/

/-- The truth table row aaaaaaaa, cccccccc, f0f0f0f0. -/
theorem test_mixing_truth_table :
    [0, 1, 2, 3].map (fun r => mixF r 0xaaaaaaaa 0xcccccccc 0xf0f0f0f0) =
      [0xd8d8d8d8, 0xacacacac, 0x96969696, 0x63636363] := by decide
theorem test_rotation_rows :
    rotl32 0x12345678 12 = 0x45678123 ∧ rotl32 0x80000000 4 = 0x00000008 ∧ rotl32 0xd76aa4f7 7 = 0xb5527beb ∧
    rotl32 0x12345678 0 = 0x12345678 := by decide
/-- Section 3: spot checks of the table of R113. -/
theorem test_step_table :
    [16, 19, 31, 32, 41, 47, 48, 63].map msgIndex = [1, 0, 12, 5, 0, 2, 0, 9] ∧
    [0, 16, 32, 48, 63].map rotAmount = [7, 5, 4, 6, 21] ∧
    [0, 1, 63].map kConst = [0xd76aa478, 0xe8c7b756, 0xeb86d391] ∧ kTable.length = 64 := by decide
/-- The example of R106: step 0 of the empty message's block. -/
theorem test_step_zero :
    stepOp (0x00000080 :: List.replicate 15 0) (loadHidden iv) =
      ⟨⟨0x10325476, 0xa5202774, 0xefcdab89, 0x98badcfe⟩, 1⟩ := by decide +kernel
/-- Section 4: two values of compress(h, block). -/
theorem test_compress_extreme_blocks :
    compress ⟨0, 0, 0, 0⟩ (zeros 64) = ⟨0xf7cd1c97, 0xa5483681, 0x2b68d832, 0xf90ca639⟩ ∧
    compress ⟨0xffffffff, 0xffffffff, 0xffffffff, 0xffffffff⟩ (List.replicate 64 0xff) =
      ⟨0x6cba9129, 0x29ffd12a, 0x8b9bb7d3, 0xa9a0a3c1⟩ := by decide +kernel
/-- Section 6: pad(54), pad(55), and the length of pad(2^61), whose length field has wrapped. -/
theorem test_pad_rows :
    pad 54 = [0x80, 0x00, 0xb0, 0x01, 0, 0, 0, 0, 0, 0] ∧ pad 55 = [0x80, 0xb8, 0x01, 0, 0, 0, 0, 0, 0] ∧
    pad (2 ^ 61) = 0x80 :: zeros 63 ∧ (pad 56).length = 72 := by decide +kernel
/-- Section 5. -/
theorem test_display_form :
    hexstr (ser ⟨0xd98c1dd4, 0x04b2008f, 0x980980e9, 0x7e42f8ec⟩) =
      ['d','4','1','d','8','c','d','9','8','f','0','0','b','2','0','4',
       'e','9','8','0','0','9','9','8','e','c','f','8','4','2','7','e'] := by decide +kernel
/-- R33, R38: the outputs after reset; R32: STATUS after a use after FINALIZE is DONE, ERR and cause 1. -/
theorem test_outputs_and_status :
    outputs State.reset = ⟨0x1032547698badcfeefcdab8967452301, 0, 0, 0⟩ ∧ statusOut 4 faulted = 0b00000111#8 := by
  decide +kernel

/-! ### Witnesses: for every statement with hypotheses, inputs that meet them, clause by clause -/

theorem witness_ResetIsTheOnlyEventThatClearsErr :
    (facing .reset faulted).host = [.reset] ∧ (facing .reset faulted).err = true ∧
    step (facing .reset faulted) = .next (resetEngine faulted) ∧ (resetEngine faulted).err = false :=
  ⟨rfl, rfl, rfl, rfl⟩

theorem witness_StepRunsTheDecodedCommand :
    (facing (.command 0x6103#208) State.reset).host = [.command 0x6103#208] ∧
    decode 0x6103#208 = .command (.absorb 0x61) ∧ State.reset.host = [] := by decide

theorem witness_PlacedTableWordRunsNext : decodeTableWord 208 0x6103 = some (.absorb 0x61) := by decide

theorem witness_DecoderFollowsTheOpcodeMap :
    (0x6100#208).toNat % 2 ^ 8 = 0 ∧ (0x6101#208).toNat % 2 ^ 8 = 1 ∧ (0x6102#208).toNat % 2 ^ 8 = 2 ∧
    (0x6103#208).toNat % 2 ^ 8 = 3 ∧ (0x6104#208).toNat % 2 ^ 8 = 4 ∧ 5 ≤ (0x6105#208).toNat % 2 ^ 8 ∧
    5 ≤ (0x61ff#208).toNat % 2 ^ 8 := by decide

/-- A RESUME pair that differs in the byte field, an ABSORB pair that differs in the tag field. -/
theorem witness_UnusedFieldsAreIgnoredAndWrittenAsZero :
    CommandWord.op 0x1002#208 = CommandWord.op 0xff02#208 ∧ CommandWord.tag 0x1002#208 = CommandWord.tag 0xff02#208 ∧
    CommandWord.count 0x1002#208 = CommandWord.count 0xff02#208 ∧ CommandWord.op 0x1002#208 = 0x02 ∧
    CommandWord.op 0x6103#208 = CommandWord.op 0x7776103#208 ∧
    CommandWord.byte 0x6103#208 = CommandWord.byte 0x7776103#208 ∧ CommandWord.op 0x6103#208 = 0x03 := by decide

theorem witness_CanonicalWordsAreTheEncodersWords :
    decode 0x6103#208 = .command (.absorb 0x61) ∧ decode 0x7776103#208 = .command (.absorb 0x61) := by decide

/-- Each bound at its last value; a listing whose lines all stand for commands, and one with an ill-formed line. -/
theorem witness_AssemblerReadsTheDisplayForm :
    (zeros 16).length = 16 ∧ 2 ^ 64 - 1 < 2 ^ 64 ∧ 255 < 256 ∧ (Char.ofNat 127).toNat < 128 ∧
    (∀ p ∈ [(AsmRow.mk .init 1, Instr.init), (AsmRow.mk (.absorb (.number 255)) 0, Instr.absorb 0xff)],
      p.1.line.toInstr = some p.2) ∧
    (∃ r ∈ [AsmRow.mk .init 1, AsmRow.mk (.absorb (.number 256)) 1], r.line.wellFormed = false) := by decide

/-- A word for the encoding clause of each command. -/
theorem witness_CommandsHaveTheirOpcodes :
    CommandWord.op 0x6100#208 = 0x00 ∧ CommandWord.op 0x6101#208 = 0x01 ∧ CommandWord.op 0x6102#208 = 0x02 ∧
    CommandWord.op 0x6103#208 = 0x03 ∧ CommandWord.op 0x6104#208 = 0x04 := by decide

theorem witness_InitMakesAFreshEngine : ∃ t, exec .init faulted = .next t := ⟨_, rfl⟩

theorem witness_ResumeInjectsTheState : (List.replicate 16 (0xff : Byte)).length = 16 := by decide

theorem witness_AbsorbFeedsOneByte :
    (feeding 62).phase = .active ∧ (feeding 62).blen ≠ 63 ∧ (feeding 63).phase = .active ∧ (feeding 63).blen = 63 ∧
    finished.phase = .done := by decide

theorem witness_AbsorbFrame :
    exec (.absorb 0x62) (feeding 62) = .next (pushByte 0x62 ((feeding 62).setCount 63)) ∧
    (feeding 62).phase = .active ∧ (61 : Nat) ≠ (feeding 62).blen.toNat ∧ (feeding 62).blen ≠ 63 ∧
    exec (.absorb 0x62) finished = .next faulted ∧ finished.phase = .done :=
  ⟨rfl, rfl, by decide, by decide, rfl, rfl⟩

theorem witness_FinalizePadsAndCompresses : (feeding 3).phase = .active ∧ finished.phase = .done := by decide

/-- Both clauses at the values where they meet. -/
theorem witness_FinalizeCompressesOneOrTwoBlocks :
    (feeding 55).phase = .active ∧ exec .finalize (feeding 55) = .next ((padSeq (feeding 55)).setPhase .done) ∧
    (feeding 55).blen.toNat ≤ 55 ∧
    (feeding 56).phase = .active ∧ exec .finalize (feeding 56) = .next ((padSeq (feeding 56)).setPhase .done) ∧
    56 ≤ (feeding 56).blen.toNat :=
  ⟨rfl, rfl, by decide, rfl, rfl, by decide⟩

/-- With 55 bytes pending the padding goes to addresses 55 to 63, and 54 is outside; with 56 pending it goes round all 64
cells, and only an address outside BUF is. -/
theorem witness_FinalizeFrame :
    exec .finalize (feeding 55) = .next ((padSeq (feeding 55)).setPhase .done) ∧
    (∀ k, k < (padBytes (feeding 55).blen.toNat (feeding 55).count).length → 54 ≠ ((feeding 55).blen.toNat + k) % 64) ∧
    (∀ k, k < (padBytes (feeding 56).blen.toNat (feeding 56).count).length → 64 ≠ ((feeding 56).blen.toNat + k) % 64) ∧
    exec .finalize finished = .next faulted ∧ finished.phase = .done :=
  ⟨rfl, by decide +kernel, by decide +kernel, rfl, rfl⟩

theorem witness_ReservedOpcodeRaisesIllegalCommand :
    (facing (.command 0x05#208) finished).host = [.command 0x05#208] ∧ 5 ≤ (0x05#208).toNat % 2 ^ 8 := by decide

theorem witness_UseAfterFinalizeIsRaisedByTheseAlone :
    finished.err = false ∧ step (facing (.command 0x6103#208) finished) = .next faulted ∧ faulted.err = true ∧
    faulted.cause = 1 ∧ finished.phase = .done ∧ decode 0x6103#208 = .command (.absorb 0x61) ∧
    decode 0x04#208 = .command .finalize :=
  ⟨rfl, rfl, rfl, rfl, rfl, by decide, by decide⟩

theorem witness_FaultEntryIsPrecise : finished.err = false ∧ faulted.err = true := by decide

theorem witness_ErrAndCauseStayUntilReset :
    step (facing (.command 0x6103#208) faulted) = .next faulted ∧ faulted.err = true ∧
    (∀ es, (facing (.command 0x6103#208) faulted).host ≠ .reset :: es) :=
  ⟨rfl, rfl, by intro es h; cases h⟩

theorem witness_LifecycleTable :
    (facing .reset finished).host = [.reset] ∧ (facing (.command 0x01#208) finished).host = [.command 0x01#208] ∧
    decode 0x01#208 = .command .init ∧ decode 0x02#208 = .command (.resume 0 0) ∧ decode 0x00#208 = .command .nop ∧
    decode 0x6103#208 = .command (.absorb 0x61) ∧ decode 0x04#208 = .command .finalize ∧
    decode 0x05#208 = .illegal 0x05 ∧ (feeding 3).phase = .active ∧ finished.phase = .done := by decide

theorem witness_WhoWritesTheChainingState :
    step (facing (.command 0x01#208) finished) =
      .next { finished with h := iv, blen := 0, count := 0, phase := .active } := rfl

theorem witness_WhoWritesTheByteCounter :
    step finished = .next finished ∧ finished.host = [] ∧
    step (facing .reset finished) = .next (resetEngine finished) ∧
    step (facing (.command 0x6203#208) (feeding 63)) = .next (pushByte 0x62 ((feeding 63).setCount 64)) ∧
    (feeding 63).phase = .active ∧ step (facing (.command 0x6203#208) finished) = .next faulted ∧
    finished.phase = .done ∧ (facing (.command 0x6203#208) finished).host = [.command 0x6203#208] ∧
    decode 0x6203#208 = .command (.absorb 0x62) ∧ decode 0x00#208 = .command .nop ∧
    decode 0x01#208 = .command .init ∧ decode 0x02#208 = .command (.resume 0 0) ∧
    decode 0x04#208 = .command .finalize ∧ decode 0x05#208 = .illegal 0x05 :=
  ⟨rfl, rfl, rfl, rfl, rfl, rfl, rfl, rfl, by decide, by decide, by decide, by decide, by decide, by decide⟩

/-- A state that meets the invariant with bytes pending, and one in phase DONE with a fault recorded. -/
theorem witness_StepKeepsTheBoundaryInvariant :
    Inv (feeding 63) ∧ Inv faulted ∧ step (facing (.command 0x6103#208) faulted) = .next faulted :=
  ⟨⟨by decide +kernel, by decide, by decide, by decide⟩, ⟨by decide, by decide, by decide, by decide⟩, rfl⟩

theorem witness_StepKeepsFillFollowsCount :
    FillFollowsCount (feeding 63) ∧ step (feeding 63) = .next (feeding 63) ∧
    decode 0x0000000000000040727fe1287d3f96d6b04fd23c985001900002#208 =
      .command (.resume 0x727fe1287d3f96d6b04fd23c98500190 64) ∧ (64 : BitVec 64).toNat % 64 = 0 :=
  ⟨fun _ => by decide, rfl, by decide, by decide⟩

/-- Two states that differ in a byte at BLEN, in a hidden register and in the counter. -/
theorem witness_UnspecifiedStateIsUnobservable :
    SameVisible (feeding 2)
      { feeding 2 with buf := [(0, 0x61), (1, 0x61), (2, 0x77)], hidden := ⟨⟨1, 2, 3, 4⟩, 5⟩, fresh := 9 } :=
  ⟨rfl, rfl, by decide, rfl, rfl, rfl, rfl, rfl⟩

theorem witness_FreshStartForgetsTheMessage :
    (feeding 2).err = finished.err ∧ (feeding 2).cause = finished.cause ∧ (feeding 2).host = finished.host := by decide

theorem witness_CanonicalMemoryIsDeterminedByItsBytes :
    Memory.wf [(0, 0x61), (63, 0x62)] = true ∧
    (∀ a, a < 64 → Memory.readByte [(0, 0x61), (63, 0x62)] a = Memory.readByte [(0, 0x61), (63, 0x62)] a) :=
  ⟨by decide, fun _ _ => rfl⟩

theorem witness_RangesOfThePipeline :
    (31 : Nat) < 32 ∧ (0 : Nat) < 32 ∧ (63 : Nat) < 64 ∧ (15 : Nat) < 16 ∧ (3 : Nat) < 4 ∧ (7 : Nat) < 8 ∧
    (4 : Nat) ≤ 4 ∧ 54 < zeroFill 0 ∧ (zeros 64).length = 64 := by decide

theorem witness_PushFillsAndCompresses : (feeding 62).blen ≠ 63 ∧ (feeding 63).blen = 63 := by decide

theorem witness_BlocksAreIndependentOfPosition :
    (feeding 2).h = { feeding 2 with count := 66, phase := .done, err := true }.h ∧
    (feeding 2).blen = { feeding 2 with count := 66, phase := .done, err := true }.blen ∧
    (feeding 2).pending = { feeding 2 with count := 66, phase := .done, err := true }.pending := by decide

theorem witness_PadSeqPushesPadOfCount : (feeding 63).blen.toNat = (feeding 63).count.toNat % 64 := by decide

theorem witness_SerializerRoundTrips : (zeros 16).length = 16 := by decide

theorem witness_DisplayFormOfADigest : 15 < (zeros 16).length := by decide

theorem witness_BlockSequenceLaw : (feeding 63).phase = .active := by decide

theorem witness_UpdateAfterFinalizeOnlyRecordsTheFault :
    finished.phase = .done ∧ ([0x61] : List Byte) ≠ [] ∧ ([] : List Byte) = [] := by decide

theorem witness_DigestReturnsMd5 : ([0x61, 0x62, 0x63] : List Byte).length < 2 ^ 61 := by decide

theorem witness_ResumeContinuesTheChain : (zeros 16).length = 16 ∧ (64 : BitVec 64).toNat % 64 = 0 := by decide

/-- A key of one byte, an empty known message, two appended bytes. -/
theorem witness_ForgedTagVerifies :
    (([0x41] : List Byte) ++ []).length + (pad (([0x41] : List Byte) ++ []).length).length + 2 < 2 ^ 61 ∧
    ∃ u, runEvents (naiveMacSeq [0x41] []) State.reset = .next u :=
  ⟨by decide +kernel, ⟨_, rfl⟩⟩

end Sys2Proof.Tests
end

