-- ==== Sys2Proof/Proofs/Scope.lean ====
section
/-! The statements of spec/00_scope.md: what a step is (R15, R190), and that the `rotl32` of R9 is a rotation. -/

open Sys2Proof Sys2Proof.Machine

namespace Sys2Proof

/-- When the decoder reads an instruction from a table word (R60, R63). -/
theorem decodeTableWord_eq_some_iff {nbits w : Nat} {i : Instr} :
    decodeTableWord nbits w = some i ↔
      nbits ≤ 208 ∧ decode (BitVec.ofNat 208 (w % 2 ^ nbits)) = .command i := by
  unfold decodeTableWord
  split
  · next hn => cases decode (BitVec.ofNat 208 (w % 2 ^ nbits)) <;> simp [hn]
  · next hn => simp [hn]

end Sys2Proof

namespace Sys2Proof.Machine

/-! ### One step, by the host's next event -/

theorem step_of_host_nil {s : State} (h : s.host = []) : step s = .next s := by
  simp [step, nextEvent_none s h, idle]

theorem step_of_command {s : State} {cw : CommandWord} {es : List HostEvent} {i : Instr}
    (h : s.host = .command cw :: es) (hd : decode cw = .command i) : step s = exec i { s with host := es } := by
  simp [step, nextEvent_some s h, hd]

theorem step_present_command {cw : CommandWord} {i : Instr} (hd : decode cw = .command i) (s : State) :
    step (present (.command cw) s) = exec i s :=
  step_of_command (present_host s _) hd

/-! ### rotl32 -/

/-- The formula of R9 is the library's rotation: below 32 the amount is its own remainder. -/
theorem rotl32_eq_rotateLeft (x : Word) {s : Nat} (hs : s < 32) : rotl32 x s = x.rotateLeft s := by
  unfold rotl32
  split
  · next h0 => simp [h0, BitVec.rotateLeft_def, BitVec.ushiftRight_eq_zero]
  · rw [BitVec.rotateLeft_def, Nat.mod_eq_of_lt hs]

end Sys2Proof.Machine

/-- Settles O35: by the library's bits of a rotation, below s the top bits of x and from s on the shifted ones. -/
theorem rotationMovesEveryBit : Obligations.RotationMovesEveryBit := by
  intro x s k hs hk
  rw [rotl32_eq_rotateLeft x hs, BitVec.getLsbD_rotateLeft, Nat.mod_eq_of_lt hs]
  by_cases hks : k < s
  · have hlow : (k + 32 - s) % 32 = 32 - s + k := by omega
    simp [hks, hlow]
  · have hhigh : (k + 32 - s) % 32 = k - s := by omega
    simp [hks, hk, hhigh]

/-- Settles O3: the event the host presents is the one the step takes. -/
theorem stepRunsTheDecodedCommand : Obligations.StepRunsTheDecodedCommand :=
  ⟨fun _ _ _ _ hhost hd => step_of_command hhost hd, fun _ hhost => step_of_host_nil hhost⟩

/-- Settles O4: placing a word presents it ahead of the host's list, and taking it gives the state back. -/
theorem placedTableWordRunsNext : Obligations.PlacedTableWordRunsNext := by
  intro s nbits w i h
  obtain ⟨-, hd⟩ := decodeTableWord_eq_some_iff.1 h
  exact step_present_command hd s

end

section
/-! The statements of spec/10_state.md: what each event leaves of the registers (R23, R29, R30, R32), the invariant of the
command boundaries (R34), that the unspecified bytes and the hidden registers never show (R28, R35), and the outputs (R33,
R38). -/

open Sys2Proof Sys2Proof.Machine

namespace Sys2Proof.Machine

/-! ### What a step or a command answered -/

variable {s t : State}

theorem step_of_reset {es : List HostEvent} (h : s.host = .reset :: es) :
    step s = .next (resetEngine { s with host := es }) := by
  simp [step, nextEvent_some s h]

theorem step_of_illegal {cw : CommandWord} {es : List HostEvent} {op : Byte} (h : s.host = .command cw :: es)
    (hd : decode cw = .illegal op) : step s = .next (raiseFault .illegalCommand { s with host := es }) := by
  simp [step, nextEvent_some s h, hd, execIllegal]

theorem exec_absorb_of_active (b : Byte) (h : s.phase = .active) :
    exec (.absorb b) s = .next (pushByte b (s.setCount (s.count + 1))) := by
  simp [exec, execAbsorb, h]

theorem exec_absorb_of_done (b : Byte) (h : s.phase = .done) :
    exec (.absorb b) s = .next (raiseFault .useAfterFinalize s) := by
  simp [exec, execAbsorb, h]

theorem exec_finalize_of_active (h : s.phase = .active) : exec .finalize s = .next ((padSeq s).setPhase .done) := by
  simp [exec, execFinalize, h]

theorem exec_finalize_of_done (h : s.phase = .done) :
    exec .finalize s = .next (raiseFault .useAfterFinalize s) := by
  simp [exec, execFinalize, h]

/-- `step_cases` read backwards: what a state that a step answered can be. -/
theorem step_inv (h : step s = .next t) :
    (s.host = [] ∧ t = s) ∨
    (∃ es, s.host = .reset :: es ∧ t = resetEngine { s with host := es }) ∨
    (∃ cw es i, s.host = .command cw :: es ∧ decode cw = .command i ∧ exec i { s with host := es } = .next t) ∨
    (∃ cw es op, s.host = .command cw :: es ∧ decode cw = .illegal op ∧
      t = raiseFault .illegalCommand { s with host := es }) := by
  simpa only [h, Host.Outcome.next.injEq, @eq_comm _ (Host.Outcome.next t), @eq_comm _ t] using step_cases s

/-- `exec_cases` read backwards: what a state that a command answered can be. -/
theorem exec_inv {i : Instr} (h : exec i s = .next t) :
    (i = .nop ∧ t = s) ∨
    (i = .init ∧ t = { s with h := iv, blen := 0, count := 0, phase := .active }) ∨
    (∃ tag count, i = .resume tag count ∧
      t = { s with h := deser (bytes128 tag), blen := 0, count := count, phase := .active }) ∨
    (∃ b, i = .absorb b ∧ s.phase = .active ∧ t = pushByte b (s.setCount (s.count + 1))) ∨
    (i = .finalize ∧ s.phase = .active ∧ t = (padSeq s).setPhase .done) ∨
    ((i = .finalize ∨ ∃ b, i = .absorb b) ∧ s.phase = .done ∧ t = raiseFault .useAfterFinalize s) := by
  simpa only [h, Host.Outcome.next.injEq] using exec_cases s i

/-! ### COMPRESS computes `compress` of the block in BUF (R109) -/

theorem ldm_eq_messageWords (s : State) : ldm s = messageWords s.block := by
  refine List.map_congr_left fun j hj => ?_
  have hj : j < 16 := List.mem_range.1 hj
  simp only [Memory.readWord, State.block]
  rw [Memory.getD_prefixBytes _ (by omega), Memory.getD_prefixBytes _ (by omega),
    Memory.getD_prefixBytes _ (by omega), Memory.getD_prefixBytes _ (by omega)]

/-- Up to 64 STEPs from a loaded H are the steps 0, 1, ... of the pure function: i counts them without wrapping. -/
theorem stepOps_loadHidden (m : List Word) (h : Words4) {n : Nat} (hn : n ≤ 64) :
    stepOps m n (loadHidden h) = ⟨(List.range n).foldl (stepWords m) h, BitVec.ofNat 6 n⟩ := by
  induction n with
  | zero => rfl
  | succ n ih =>
    have hi : (BitVec.ofNat 6 n).toNat = n := by simp; omega
    rw [stepOps_succ, ih (by omega), stepOp, hi, List.range_succ, List.foldl_append, BitVec.ofNat_add]
    rfl

theorem compressOp_h_eq_compress (s : State) : (compressOp s).h = compress s.h s.block := by
  rw [compressOp_h, stepOps_loadHidden _ _ le_rfl, ldm_eq_messageWords, compress]

/-! ### PUSH on H and on the pending bytes (R84) -/

theorem pushByte_h_of_ne (v : Byte) (h : s.blen ≠ 63) : (pushByte v s).h = s.h := by
  simp [pushByte_of_ne s v h]

theorem pushByte_hidden_of_ne (v : Byte) (h : s.blen ≠ 63) : (pushByte v s).hidden = s.hidden := by
  simp [pushByte_of_ne s v h]

theorem pushByte_h_of_eq (v : Byte) (h : s.blen = 63) : (pushByte v s).h = compress s.h (s.pending ++ [v]) := by
  have hblock : (s.setBufByte 63 v).block = s.pending ++ [v] := by
    rw [State.block, State.setBufByte_buf, Memory.prefixBytes_succ_writeByte, State.pending, h]
    rfl
  rw [pushByte_of_eq s v h, State.setBlen_h, compressOp_h_eq_compress, hblock, State.setBufByte_h]

theorem pushByte_pending_of_ne (v : Byte) (h : s.blen ≠ 63) : (pushByte v s).pending = s.pending ++ [v] := by
  have hb : (s.blen + 1).toNat = s.blen.toNat + 1 := by bv_omega
  rw [State.pending, pushByte_buf, pushByte_blen, hb, Memory.prefixBytes_succ_writeByte, State.pending]

theorem pushByte_pending_of_eq (v : Byte) (h : s.blen = 63) : (pushByte v s).pending = [] := by
  rw [State.pending, pushByte_blen, h]
  rfl

theorem length_pending (s : State) : s.pending.length = s.blen.toNat :=
  Memory.length_prefixBytes _ _

/-! ### A run of PUSHes folds the whole blocks into H -/

theorem chain_of_length_lt (h : Words4) {p : List Byte} (hp : p.length < 64) : chain h p = h := by
  rw [chain, Nat.div_eq_of_lt hp, chainBlocks]

theorem chain_block_append (h : Words4) {b : List Byte} (hb : b.length = 64) (p : List Byte) :
    chain h (b ++ p) = chain (compress h b) p := by
  have hq : (b ++ p).length / 64 = p.length / 64 + 1 := by rw [List.length_append]; omega
  rw [chain, hq, chainBlocks, List.take_left' hb, List.drop_left' hb, chain]

theorem pushBytes_h (vs : List Byte) (s : State) : (pushBytes vs s).h = chain s.h (s.pending ++ vs) := by
  induction vs generalizing s with
  | nil =>
    have hlen : s.pending.length < 64 := by rw [length_pending]; exact s.blen.isLt
    rw [pushBytes_nil, List.append_nil, chain_of_length_lt _ hlen]
  | cons v vs ih =>
    have hsplit : s.pending ++ v :: vs = s.pending ++ [v] ++ vs := by simp
    rw [pushBytes_cons, ih, hsplit]
    by_cases hb : s.blen = 63
    · have hlen : (s.pending ++ [v]).length = 64 := by simp [length_pending, hb]
      rw [pushByte_h_of_eq v hb, pushByte_pending_of_eq v hb, List.nil_append, chain_block_append _ hlen]
    · rw [pushByte_h_of_ne v hb, pushByte_pending_of_ne v hb]

theorem padSeq_h (s : State) : (padSeq s).h = chain s.h (s.pending ++ padBytes s.blen.toNat s.count) := by
  rw [padSeq_eq, pushBytes_h]

theorem length_padBytes (n : Nat) (count : BitVec 64) : (padBytes n count).length = 9 + zeroFill n := by
  have hbytes (v : BitVec 64) : (bytes64 v).length = 8 := length_bytesLE 8 v
  simp only [padBytes, List.length_append, List.length_singleton, length_zeros, hbytes]
  omega

/-- The padding fills the last block, so PADSEQ leaves the buffer empty (R137). -/
@[simp] theorem padSeq_blen (s : State) : (padSeq s).blen = 0 := by
  have hlen : (s.blen.toNat + (padBytes s.blen.toNat s.count).length) % 64 = 0 := by
    rw [length_padBytes, zeroFill]
    omega
  rw [padSeq_eq, pushBytes_blen]
  apply BitVec.eq_of_toNat_eq
  rw [BitVec.toNat_add, BitVec.toNat_ofNat]
  simpa using hlen

/-- Who writes H: INIT and RESUME, and ABSORB and FINALIZE through whole blocks (R23). -/
theorem exec_writes_h {i : Instr} (h : exec i s = .next t) :
    t.h = s.h ∨
    (i = .init ∧ t.h = iv) ∨
    (∃ tag count, i = .resume tag count ∧ t.h = deser (bytes128 tag)) ∨
    (∃ b, i = .absorb b ∧ s.phase = .active ∧ s.blen = 63 ∧ t.h = compress s.h (s.pending ++ [b])) ∨
    (i = .finalize ∧ s.phase = .active ∧ t.h = chain s.h (s.pending ++ padBytes s.blen.toNat s.count)) := by
  rcases exec_inv h with ⟨-, rfl⟩ | ⟨hi, rfl⟩ | ⟨tag, n, hi, rfl⟩ | ⟨b, hi, hp, rfl⟩ | ⟨hi, hp, rfl⟩ | ⟨-, -, rfl⟩
  · exact .inl rfl
  · exact .inr (.inl ⟨hi, rfl⟩)
  · exact .inr (.inr (.inl ⟨tag, n, hi, rfl⟩))
  · by_cases hb : s.blen = 63
    · exact .inr (.inr (.inr (.inl ⟨b, hi, hp, hb, pushByte_h_of_eq (s := s.setCount (s.count + 1)) b hb⟩)))
    · exact .inl (pushByte_h_of_ne (s := s.setCount (s.count + 1)) b hb)
  · exact .inr (.inr (.inr (.inr ⟨hi, hp, (State.setPhase_h _ _).trans (padSeq_h s)⟩)))
  · exact .inl (raiseFault_h s _)

/-! ### The invariant of the command boundaries, event by event (R34) -/

theorem inv_withHost (h : Inv s) (es : List HostEvent) : Inv { s with host := es } :=
  ⟨h.bufWf, h.doneEmpty, h.noErrNoCause, h.errCause⟩

theorem inv_resetEngine (s : State) : Inv (resetEngine s) := by
  constructor <;> simp

theorem inv_raiseFault (h : Inv s) (q : FaultCause) : Inv (raiseFault q s) where
  bufWf := by simpa using h.bufWf
  doneEmpty := by simpa using h.doneEmpty
  noErrNoCause := by simp
  errCause _ := by
    rw [raiseFault_cause]
    split
    · next he => exact h.errCause he
    · cases q <;> simp [FaultCause.code]

/-- INIT and RESUME start a message: they empty the buffer and keep a recorded fault. -/
theorem inv_start (h : Inv s) (x : Words4) (n : BitVec 64) :
    Inv { s with h := x, blen := 0, count := n, phase := .active } :=
  ⟨h.bufWf, fun _ => rfl, h.noErrNoCause, h.errCause⟩

theorem inv_pushByte (h : Inv s) (hp : s.phase = .active) (v : Byte) : Inv (pushByte v s) where
  bufWf := pushByte_wf s v h.bufWf
  doneEmpty := by simp [hp]
  noErrNoCause := by simpa using h.noErrNoCause
  errCause := by simpa using h.errCause

theorem inv_setCount (h : Inv s) (n : BitVec 64) : Inv (s.setCount n) :=
  ⟨h.bufWf, h.doneEmpty, h.noErrNoCause, h.errCause⟩

theorem inv_padSeq_done (h : Inv s) : Inv ((padSeq s).setPhase .done) where
  bufWf := by simpa using padSeq_wf s h.bufWf
  doneEmpty := by simp
  noErrNoCause := by simpa using h.noErrNoCause
  errCause := by simpa using h.errCause

theorem exec_keeps_inv {i : Instr} (h : Inv s) (he : exec i s = .next t) : Inv t := by
  rcases exec_inv he with ⟨-, rfl⟩ | ⟨-, rfl⟩ | ⟨tag, n, -, rfl⟩ | ⟨b, -, hp, rfl⟩ | ⟨-, -, rfl⟩ | ⟨-, -, rfl⟩
  · exact h
  · exact inv_start h _ _
  · exact inv_start h _ _
  · exact inv_pushByte (inv_setCount h (s.count + 1)) hp b
  · exact inv_padSeq_done h
  · exact inv_raiseFault h _

/-! ### The fill count follows the byte counter (R29) -/

theorem fillFollowsCount_pushByte (h : FillFollowsCount s) (v : Byte) :
    FillFollowsCount (pushByte v (s.setCount (s.count + 1))) := by
  intro hp
  have hfill : s.blen.toNat = s.count.toNat % 64 := h (by simpa using hp)
  simp only [pushByte_blen, pushByte_count, State.setCount_blen, State.setCount_count]
  bv_omega

/-- A command keeps it unless it is a RESUME with a count that is no multiple of 64. -/
theorem exec_keeps_fillFollowsCount {i : Instr} (h : FillFollowsCount s) (he : exec i s = .next t)
    (hresume : ∀ tag count, i = .resume tag count → count.toNat % 64 = 0) : FillFollowsCount t := by
  rcases exec_inv he with ⟨-, rfl⟩ | ⟨-, rfl⟩ | ⟨tag, n, hi, rfl⟩ | ⟨b, -, -, rfl⟩ | ⟨-, -, rfl⟩ | ⟨-, hp, rfl⟩
  · exact h
  · exact fun _ => rfl
  · exact fun _ => (hresume tag n hi).symm
  · exact fillFollowsCount_pushByte h b
  · simp [FillFollowsCount]
  · simp [FillFollowsCount, hp]

/-! ### COUNT (R30) -/

/-- The value R30 and the command's own rule give COUNT. -/
def countAfter (i : Instr) (s : State) : BitVec 64 :=
  match i, s.phase with
  | .init, _ => 0
  | .resume _ count, _ => count
  | .absorb _, .active => s.count + 1
  | _, _ => s.count

theorem exec_count {i : Instr} (h : exec i s = .next t) : t.count = countAfter i s := by
  rcases exec_inv h with ⟨rfl, rfl⟩ | ⟨rfl, rfl⟩ | ⟨tag, n, rfl, rfl⟩ | ⟨b, rfl, hp, rfl⟩ | ⟨rfl, -, rfl⟩ |
    ⟨rfl | ⟨b, rfl⟩, hp, rfl⟩
  · rfl
  · rfl
  · rfl
  · simp [countAfter, hp]
  · simp [countAfter]
  · simp [countAfter]
  · simp [countAfter, hp]

theorem step_count_of_command {cw : CommandWord} {es : List HostEvent} {i : Instr} (hstep : step s = .next t)
    (hhost : s.host = .command cw :: es) (hd : decode cw = .command i) : t.count = countAfter i s := by
  rw [step_of_command hhost hd] at hstep
  exact exec_count (s := { s with host := es }) hstep

/-! ### The first fault is kept (R32, R177) -/

/-- With a fault recorded no command changes ERR or CAUSE, INIT and RESUME among them. -/
theorem exec_keeps_fault {i : Instr} (he : exec i s = .next t) (herr : s.err = true) :
    t.err = true ∧ t.cause = s.cause := by
  rcases exec_inv he with ⟨-, rfl⟩ | ⟨-, rfl⟩ | ⟨tag, n, -, rfl⟩ | ⟨b, -, -, rfl⟩ | ⟨-, -, rfl⟩ | ⟨-, -, rfl⟩ <;>
    simp [herr, raiseFault_cause]

/-! ### The visible part of the state decides the visible part of the next (R28, R35) -/

theorem SameVisible.pending_eq (h : SameVisible s t) : s.pending = t.pending := by
  rw [State.pending, State.pending, ← h.blen]
  exact List.map_congr_left fun a ha => h.pending a (List.mem_range.1 ha)

theorem SameVisible.outputs_eq (h : SameVisible s t) : outputs s = outputs t := by
  simp only [outputs, digestOut, doneOut, errOut, causeOut, h.h, h.phase, h.err, h.cause]

theorem sameVisible_withHost (h : SameVisible s t) (es : List HostEvent) :
    SameVisible { s with host := es } { t with host := es } :=
  ⟨h.h, h.blen, h.pending, h.count, h.phase, h.err, h.cause, rfl⟩

theorem sameVisible_resetEngine (h : SameVisible s t) : SameVisible (resetEngine s) (resetEngine t) :=
  ⟨rfl, rfl, fun _ _ => rfl, rfl, rfl, rfl, rfl, h.host⟩

theorem sameVisible_raiseFault (h : SameVisible s t) (q : FaultCause) :
    SameVisible (raiseFault q s) (raiseFault q t) where
  h := by simpa using h.h
  blen := by simpa using h.blen
  pending := by simpa using h.pending
  count := by simpa using h.count
  phase := by simpa using h.phase
  err := by simp
  cause := by rw [raiseFault_cause, raiseFault_cause, h.err, h.cause]
  host := by simpa using h.host

/-- With the buffer empty no byte of BUF is visible. -/
theorem sameVisible_start (h : SameVisible s t) (x : Words4) (n : BitVec 64) :
    SameVisible { s with h := x, blen := 0, count := n, phase := .active }
      { t with h := x, blen := 0, count := n, phase := .active } :=
  ⟨rfl, rfl, fun _ ha => absurd ha (Nat.not_lt_zero _), rfl, rfl, h.err, h.cause, h.host⟩

theorem sameVisible_setCount (h : SameVisible s t) (n : BitVec 64) : SameVisible (s.setCount n) (t.setCount n) :=
  ⟨h.h, h.blen, h.pending, rfl, h.phase, h.err, h.cause, h.host⟩

theorem sameVisible_setPhase (h : SameVisible s t) (p : Phase) : SameVisible (s.setPhase p) (t.setPhase p) :=
  ⟨h.h, h.blen, h.pending, h.count, rfl, h.err, h.cause, h.host⟩

/-- PUSH puts H through a block of visible bytes only: the 63 pending ones and the pushed one. -/
theorem pushByte_h_congr (h : SameVisible s t) (v : Byte) : (pushByte v s).h = (pushByte v t).h := by
  by_cases hb : s.blen = 63
  · rw [pushByte_h_of_eq v hb, pushByte_h_of_eq v (h.blen ▸ hb), h.h, h.pending_eq]
  · rw [pushByte_h_of_ne v hb, pushByte_h_of_ne v (h.blen ▸ hb), h.h]

theorem sameVisible_pushByte (h : SameVisible s t) (v : Byte) : SameVisible (pushByte v s) (pushByte v t) where
  h := pushByte_h_congr h v
  blen := by simp [h.blen]
  pending a ha := by
    rw [pushByte_blen] at ha
    rw [pushByte_buf, pushByte_buf, Memory.readByte_writeByte, Memory.readByte_writeByte, ← h.blen]
    split
    · rfl
    · next hne =>
      have hlt : a < s.blen.toNat := by bv_omega
      exact h.pending a hlt
  count := by simpa using h.count
  phase := by simpa using h.phase
  err := by simpa using h.err
  cause := by simpa using h.cause
  host := by simpa using h.host

theorem sameVisible_pushBytes (vs : List Byte) (h : SameVisible s t) :
    SameVisible (pushBytes vs s) (pushBytes vs t) := by
  induction vs generalizing s t with
  | nil => exact h
  | cons v vs ih => exact ih (sameVisible_pushByte h v)

theorem sameVisible_padSeq (h : SameVisible s t) : SameVisible (padSeq s) (padSeq t) := by
  rw [padSeq_eq, padSeq_eq, ← h.blen, ← h.count]
  exact sameVisible_pushBytes _ h

theorem exec_sameVisible (i : Instr) (h : SameVisible s t) :
    ∃ s' t', exec i s = .next s' ∧ exec i t = .next t' ∧ SameVisible s' t' := by
  cases i with
  | nop => exact ⟨s, t, rfl, rfl, h⟩
  | init => exact ⟨_, _, rfl, rfl, sameVisible_start h iv 0⟩
  | resume tag n => exact ⟨_, _, rfl, rfl, sameVisible_start h (deser (bytes128 tag)) n⟩
  | absorb b =>
    cases hp : s.phase with
    | active =>
      refine ⟨_, _, exec_absorb_of_active b hp, exec_absorb_of_active b (h.phase ▸ hp), ?_⟩
      rw [← h.count]
      exact sameVisible_pushByte (sameVisible_setCount h _) b
    | done =>
      exact ⟨_, _, exec_absorb_of_done b hp, exec_absorb_of_done b (h.phase ▸ hp), sameVisible_raiseFault h _⟩
  | finalize =>
    cases hp : s.phase with
    | active =>
      exact ⟨_, _, exec_finalize_of_active hp, exec_finalize_of_active (h.phase ▸ hp),
        sameVisible_setPhase (sameVisible_padSeq h) _⟩
    | done =>
      exact ⟨_, _, exec_finalize_of_done hp, exec_finalize_of_done (h.phase ▸ hp), sameVisible_raiseFault h _⟩

theorem step_sameVisible (h : SameVisible s t) :
    ∃ s' t', step s = .next s' ∧ step t = .next t' ∧ SameVisible s' t' := by
  match hs : s.host with
  | [] => exact ⟨s, t, step_of_host_nil hs, step_of_host_nil (h.host ▸ hs), h⟩
  | .reset :: es =>
    exact ⟨_, _, step_of_reset hs, step_of_reset (h.host ▸ hs), sameVisible_resetEngine (sameVisible_withHost h es)⟩
  | .command cw :: es =>
    match hd : decode cw with
    | .command i =>
      rw [step_of_command hs hd, step_of_command (h.host ▸ hs) hd]
      exact exec_sameVisible i (sameVisible_withHost h es)
    | .illegal op =>
      exact ⟨_, _, step_of_illegal hs hd, step_of_illegal (h.host ▸ hs) hd,
        sameVisible_raiseFault (sameVisible_withHost h es) _⟩

/-! ### The outputs (R33) -/

theorem length_ser (h : Words4) : (ser h).length = 16 := by
  simp [ser, bytes32]

theorem leSum_ser (h : Words4) :
    leSum (ser h) = h.a.toNat + 2 ^ 32 * h.b.toNat + 2 ^ 64 * h.c.toNat + 2 ^ 96 * h.d.toNat := by
  have hword (w : Word) : leSum (bytes32 w) = w.toNat := by
    rw [bytes32, leSum_bytesLE]
    exact Nat.mod_eq_of_lt w.isLt
  have hlen (w : Word) : (bytes32 w).length = 4 := length_bytesLE 4 w
  simp only [ser, leSum_append, List.length_append, hword, hlen]

theorem digestOut_toNat (s : State) :
    (digestOut s).toNat = s.h.a.toNat + 2 ^ 32 * s.h.b.toNat + 2 ^ 64 * s.h.c.toNat + 2 ^ 96 * s.h.d.toNat := by
  rw [digestOut, le128, BitVec.toNat_ofNat, leSum_ser]
  omega

theorem rdDigest_eq_ser (s : State) : rdDigest s = ser s.h := by
  have h := bytesLE_leSum (ser s.h) 128 (by rw [length_ser])
  rwa [length_ser] at h

theorem digestOut_extractLsb' (s : State) (k : Fin 4) : (digestOut s).extractLsb' (32 * k.val) 32 = s.h.word k := by
  apply BitVec.eq_of_toNat_eq
  rw [BitVec.extractLsb'_toNat, digestOut_toNat, Nat.shiftRight_eq_div_pow]
  fin_cases k <;> simp [Words4.word] <;> omega

/-- Below bit 4 STATUS is CAUSE, ERR and PHASE put together; the widening does not show there. -/
theorem statusOut_getLsbD (upper : Nat) (s : State) {k : Nat} (hk : k < 4) :
    (statusOut upper s).getLsbD k = (causeOut s ++ errOut s ++ doneOut s).getLsbD k := by
  rw [statusOut, BitVec.getLsbD_setWidth, decide_eq_true (by omega), Bool.true_and]

end Sys2Proof.Machine

/-- Settles O29: a step is an event on the state from which it has been taken, and each event keeps the invariant. -/
theorem stepKeepsTheBoundaryInvariant : Obligations.StepKeepsTheBoundaryInvariant := by
  intro s t h hstep
  rcases step_inv hstep with ⟨-, rfl⟩ | ⟨es, -, rfl⟩ | ⟨cw, es, i, -, -, hexec⟩ | ⟨cw, es, op, -, -, rfl⟩
  · exact h
  · exact inv_resetEngine _
  · exact exec_keeps_inv (inv_withHost h es) hexec
  · exact inv_raiseFault (inv_withHost h es) _

/-- Settles O32: the visible part of a state decides its outputs and the visible part of the next state. -/
theorem unspecifiedStateIsUnobservable : Obligations.UnspecifiedStateIsUnobservable := by
  intro s t h
  obtain ⟨s', t', hs, ht, h'⟩ := step_sameVisible h
  exact ⟨h.outputs_eq, s', t', hs, ht, h', h'.outputs_eq⟩

/-- Settles O17: in phase ACTIVE by the frame of PUSH, in phase DONE by that of a fault. -/
theorem absorbFrame : Obligations.AbsorbFrame := by
  intro b s t h
  cases hp : s.phase with
  | active =>
    obtain rfl : pushByte b (s.setCount (s.count + 1)) = t := by simpa [exec_absorb_of_active b hp] using h
    refine ⟨fun a _ ha => ?_, ?_, ?_, fun hb => ⟨?_, ?_⟩, ?_, ?_, ?_⟩
    · simpa using Memory.readByte_writeByte_other s.buf b ha
    · simp
    · simp
    · simpa using pushByte_h_of_ne (s := s.setCount (s.count + 1)) b hb
    · simpa using pushByte_hidden_of_ne (s := s.setCount (s.count + 1)) b hb
    · simpa using hp
    · simp
    · simp
  | done =>
    obtain rfl : raiseFault .useAfterFinalize s = t := by simpa [exec_absorb_of_done b hp] using h
    simp [hp]

/-- Settles O24: no event but reset clears a recorded fault, and INIT and RESUME write PHASE but not ERR and CAUSE. -/
theorem errAndCauseStayUntilReset : Obligations.ErrAndCauseStayUntilReset := by
  constructor
  · intro s t hstep herr hnoreset
    rcases step_inv hstep with ⟨-, rfl⟩ | ⟨es, hhost, -⟩ | ⟨cw, es, i, -, -, hexec⟩ | ⟨cw, es, op, -, -, rfl⟩
    · exact ⟨herr, rfl⟩
    · exact absurd hhost (hnoreset es)
    · exact exec_keeps_fault (s := { s with host := es }) hexec herr
    · simp [raiseFault_cause, herr]
  · rintro s i (rfl | ⟨tag, count, rfl⟩)
    · exact ⟨_, rfl, rfl, rfl, rfl⟩
    · exact ⟨_, rfl, rfl, rfl, rfl⟩

/-- Settles O25: STATUS is the concatenation of the three outputs, and the widening adds zeros. -/
theorem statusLayout : Obligations.StatusLayout := by
  intro upper s
  refine ⟨?_, ?_, ?_, fun k hk => ?_⟩
  · rw [statusOut_getLsbD upper s (by omega), BitVec.getLsbD_append]
    cases hp : s.phase <;> simp [doneOut, hp, Phase.bit]
  · rw [statusOut_getLsbD upper s (by omega), BitVec.getLsbD_append, BitVec.getLsbD_append]
    simp [errOut]
  · apply BitVec.eq_of_getLsbD_eq
    intro k hk
    rw [BitVec.getLsbD_extractLsb', statusOut_getLsbD upper s (by omega), BitVec.getLsbD_append, BitVec.getLsbD_append]
    simp [hk, causeOut, show ¬ 2 + k < 1 by omega]
  · rw [statusOut, BitVec.getLsbD_setWidth, BitVec.getLsbD_of_ge _ k hk, Bool.and_false]

/-- Settles O27: what each event makes of H, the commands by `exec_writes_h`. -/
theorem whoWritesTheChainingState : Obligations.WhoWritesTheChainingState := by
  intro s t hstep
  rcases step_inv hstep with ⟨-, rfl⟩ | ⟨es, hhost, rfl⟩ | ⟨cw, es, i, hhost, hd, hexec⟩ | ⟨cw, es, op, -, -, rfl⟩
  · exact .inl rfl
  · exact .inr (.inl ⟨es, hhost, resetEngine_h _⟩)
  · exact (exec_writes_h hexec).imp_right fun hwritten => .inr ⟨cw, es, i, hhost, hd, hwritten⟩
  · exact .inl (raiseFault_h _ _)

/-- Settles O28: the event the host presents decides which of the writes of COUNT the step does. -/
theorem whoWritesTheByteCounter : Obligations.WhoWritesTheByteCounter := by
  intro s t hstep
  refine ⟨fun hhost => ?_, fun es hhost => ?_, fun cw es hhost =>
    ⟨fun hd => ?_, fun hd => ?_, fun tag n hd => ?_, fun b hd hp => ?_, fun b hd hp => ?_, fun hd => ?_,
      fun op hd => ?_⟩⟩
  · rw [step_of_host_nil hhost] at hstep
    cases hstep
    rfl
  · rw [step_of_reset hhost] at hstep
    cases hstep
    rfl
  · exact step_count_of_command hstep hhost hd
  · exact step_count_of_command hstep hhost hd
  · exact step_count_of_command hstep hhost hd
  · rw [step_count_of_command hstep hhost hd]
    simp [countAfter, hp]
  · rw [step_count_of_command hstep hhost hd]
    simp [countAfter, hp]
  · exact step_count_of_command hstep hhost hd
  · rw [step_of_illegal hhost hd] at hstep
    cases hstep
    simp

/-- Settles O31: PUSH and the counter go up together, INIT and reset put both to 0, and phase DONE promises nothing. -/
theorem stepKeepsFillFollowsCount : Obligations.StepKeepsFillFollowsCount := by
  intro s t h hstep hresume
  rcases step_inv hstep with ⟨-, rfl⟩ | ⟨es, -, rfl⟩ | ⟨cw, es, i, hhost, hd, hexec⟩ | ⟨cw, es, op, -, -, rfl⟩
  · exact h
  · simp [FillFollowsCount]
  · refine exec_keeps_fillFollowsCount (s := { s with host := es }) h hexec fun tag count hi => ?_
    exact hresume cw es tag count hhost (hi ▸ hd)
  · simpa [FillFollowsCount] using h

/-- Settles O51: `digest_out` is the number of the 16 bytes of ser(H), which is that of the four words. -/
theorem outputsShowTheState : Obligations.OutputsShowTheState := by
  intro s
  refine ⟨digestOut_extractLsb' s, digestOut_toNat s, rdDigest_eq_ser s, ?_, ?_, rfl⟩
  · cases hp : s.phase <;> simp [doneOut, hp, Phase.bit]
  · cases he : s.err <;> simp [errOut, he]

/-- Settles O1: the reset state is a literal; its digest is the number of the four words of IV. -/
theorem resetLeavesTheStatedValues : Obligations.ResetLeavesTheStatedValues := by
  refine ⟨rfl, rfl, rfl, rfl, rfl, rfl, ?_⟩
  have hdigest : digestOut State.reset = 0x1032547698BADCFEEFCDAB8967452301 :=
    BitVec.eq_of_toNat_eq (digestOut_toNat State.reset)
  rw [outputs, hdigest]
  rfl

/-- Settles O30: the reset state is a literal. -/
theorem resetMeetsTheInvariants : Obligations.ResetMeetsTheInvariants :=
  ⟨inv_resetEngine State.reset, fun _ => rfl, rfl⟩

end

section
/-! The statement of spec/20_memory.md: in canonical form BUF is the list of its own written bytes (R40), so its reads
determine it. -/

open Sys2Proof Sys2Proof.Machine

namespace Sys2Proof.Machine

/-- Rising addresses name no address twice, so the first entry for an address is the only one. -/
theorem Memory.readByte_of_mem {m : Memory} (hm : m.Pairwise fun x y => x.1 < y.1) {c : Host.Cell} (hc : c ∈ m) :
    m.readByte c.1 = c.2 := by
  induction m with
  | nil => simp at hc
  | cons x m ih =>
    obtain ⟨hx, hm⟩ := List.pairwise_cons.1 hm
    rcases List.mem_cons.1 hc with rfl | hc
    · exact if_pos rfl
    · rw [readByte_cons, if_neg (hx c hc).ne, ih hm hc]

theorem Memory.mem_of_readByte_ne {m : Memory} {a : Nat} (h : m.readByte a ≠ unwrittenByte) :
    (a, m.readByte a) ∈ m := by
  induction m with
  | nil => simp at h
  | cons x m ih =>
    obtain ⟨k, b⟩ := x
    rw [readByte_cons] at h ⊢
    by_cases hk : k = a
    · simp [hk]
    · rw [if_neg hk] at h ⊢
      exact List.mem_cons_of_mem _ (ih h)

/-- A buffer in canonical form lists exactly what its reads show of written bytes. -/
theorem Memory.mem_iff_readByte {m : Memory} (hm : m.wf = true) {c : Host.Cell} :
    c ∈ m ↔ c.2 ≠ unwrittenByte ∧ m.readByte c.1 = c.2 := by
  obtain ⟨hrising, hcells⟩ := (wf_iff m).1 hm
  constructor
  · exact fun hc => ⟨(hcells c hc).2, readByte_of_mem hrising hc⟩
  · rintro ⟨hne, hread⟩
    have hmem := mem_of_readByte_ne (hread ▸ hne)
    rwa [hread] at hmem

theorem Memory.readByte_of_ge {m : Memory} (hm : m.wf = true) {a : Nat} (ha : 64 ≤ a) :
    m.readByte a = unwrittenByte := by
  obtain ⟨-, hcells⟩ := (wf_iff m).1 hm
  exact readByte_of_forall_ne fun c hc => ((hcells c hc).1.trans_le ha).ne

end Sys2Proof.Machine

/-- Settles O34: reads that agree on the 64 cells agree everywhere, so the two lists have the same entries, and one list
of rising addresses holds them. -/
theorem canonicalMemoryIsDeterminedByItsBytes : Obligations.CanonicalMemoryIsDeterminedByItsBytes := by
  intro m m' hm hm' hcells
  have hread (a : Nat) : m.readByte a = m'.readByte a := by
    rcases lt_or_ge a 64 with ha | ha
    · exact hcells a ha
    · rw [Memory.readByte_of_ge hm ha, Memory.readByte_of_ge hm' ha]
  have hmem : ∀ c : Host.Cell, c ∈ m ↔ c ∈ m' := by
    intro c
    rw [Memory.mem_iff_readByte hm, Memory.mem_iff_readByte hm', hread]
  have hasymm : Std.Asymm fun x y : Host.Cell => x.1 < y.1 := ⟨fun _ _ => lt_asymm⟩
  obtain ⟨hrising, -⟩ := (Memory.wf_iff m).1 hm
  obtain ⟨hrising', -⟩ := (Memory.wf_iff m').1 hm'
  exact hrising.eq_of_mem_iff hrising' hmem

end

section
/-! The statements of spec/30_encoding.md, with the display form of spec/43_serializer.md they read: the decoder by
opcode (R63, R65), the fields of a command word (R61, R62), the encoder's canonical words (R64) and the assembler (R68,
R149). -/

open Sys2Proof Sys2Proof.Machine

namespace Sys2Proof

/-! ### The decoder, by the opcode (R63, R65) -/

section Decoder

variable {cw : CommandWord}

theorem decode_of_op_nop (h : cw.op = 0x00) : decode cw = .command .nop := by simp [decode, h]

theorem decode_of_op_init (h : cw.op = 0x01) : decode cw = .command .init := by simp [decode, h]

theorem decode_of_op_resume (h : cw.op = 0x02) : decode cw = .command (.resume cw.tag cw.count) := by simp [decode, h]

theorem decode_of_op_absorb (h : cw.op = 0x03) : decode cw = .command (.absorb cw.byte) := by simp [decode, h]

theorem decode_of_op_finalize (h : cw.op = 0x04) : decode cw = .command .finalize := by simp [decode, h]

theorem decode_of_op_reserved (h : 5 ≤ cw.op.toNat) : decode cw = .illegal cw.op := by
  have hne (v : Byte) (hv : v.toNat < 5) : cw.op ≠ v := by rintro rfl; omega
  simp [decode, hne]

/-- The rows of the opcode map are all the opcodes there are. -/
theorem CommandWord.op_cases (cw : CommandWord) :
    cw.op = 0x00 ∨ cw.op = 0x01 ∨ cw.op = 0x02 ∨ cw.op = 0x03 ∨ cw.op = 0x04 ∨ 5 ≤ cw.op.toNat := by
  bv_omega

end Decoder

/-! ### The fields of a command word as numbers (R61, R62) -/

theorem CommandWord.op_toNat (cw : CommandWord) : cw.op.toNat = cw.toNat % 2 ^ 8 := by
  rw [op, BitVec.extractLsb'_toNat, Nat.shiftRight_zero]

theorem CommandWord.byte_toNat (cw : CommandWord) : cw.byte.toNat = cw.toNat / 2 ^ 8 % 2 ^ 8 := by
  rw [byte, BitVec.extractLsb'_toNat, Nat.shiftRight_eq_div_pow]

theorem CommandWord.tag_toNat (cw : CommandWord) : cw.tag.toNat = cw.toNat / 2 ^ 16 % 2 ^ 128 := by
  rw [tag, BitVec.extractLsb'_toNat, Nat.shiftRight_eq_div_pow]

/-- The count is the top field, so nothing is cut off above it. -/
theorem CommandWord.count_toNat (cw : CommandWord) : cw.count.toNat = cw.toNat / 2 ^ 144 := by
  have hcw := cw.isLt
  rw [count, BitVec.extractLsb'_toNat, Nat.shiftRight_eq_div_pow, Nat.mod_eq_of_lt (by omega)]

theorem CommandWord.op_eq_iff (cw : CommandWord) (v : Byte) : cw.op = v ↔ cw.toNat % 2 ^ 8 = v.toNat := by
  rw [← op_toNat, BitVec.toNat_inj]

/-- Byte j of the tag lies 16 bits above bit 8j of the command word. -/
theorem CommandWord.tag_extractLsb' (cw : CommandWord) {j : Nat} (hj : j < 16) :
    cw.tag.extractLsb' (8 * j) 8 = cw.extractLsb' (16 + 8 * j) 8 := by
  apply BitVec.eq_of_getLsbD_eq
  intro k hk
  have hin : 8 * j + k < 128 := by omega
  simp [tag, hin, Nat.add_assoc]

theorem CommandWord.bytes128_tag (cw : CommandWord) :
    bytes128 cw.tag = (List.range 16).map fun j => BitVec.ofNat 8 (cw.toNat / 2 ^ (16 + 8 * j) % 2 ^ 8) := by
  refine List.map_congr_left fun j hj => ?_
  rw [tag_extractLsb' cw (List.mem_range.1 hj)]
  apply BitVec.eq_of_toNat_eq
  rw [BitVec.extractLsb'_toNat, Nat.shiftRight_eq_div_pow, BitVec.toNat_ofNat, Nat.mod_mod]

theorem Machine.le128_bytes128 (v : BitVec 128) : le128 (bytes128 v) = v := by
  apply BitVec.eq_of_toNat_eq
  rw [le128, bytes128, leSum_bytesLE, BitVec.toNat_ofNat, Nat.mod_mod, Nat.mod_eq_of_lt v.isLt]

/-- A command word is put together from its own four fields. -/
theorem commandWord_fields (cw : CommandWord) : commandWord cw.count cw.tag cw.byte cw.op = cw := by
  rw [commandWord, CommandWord.count, CommandWord.tag, CommandWord.byte, CommandWord.op,
    BitVec.extractLsb'_append_extractLsb'_eq_extractLsb' (show 144 = 16 + 128 from rfl),
    BitVec.extractLsb'_append_extractLsb'_eq_extractLsb' (show 16 = 8 + 8 from rfl),
    BitVec.extractLsb'_append_extractLsb'_eq_extractLsb' (show 8 = 0 + 8 from rfl), BitVec.extractLsb'_eq_self]

/-! ### The encoder -/

theorem op_encode (i : Instr) : (encode i).op = i.opcode := by
  cases i with
  | nop => exact Laws.OpcodeField.nop
  | init => exact Laws.OpcodeField.init
  | resume tag count => exact Laws.OpcodeField.resume tag count
  | absorb b => exact Laws.OpcodeField.absorb b
  | finalize => exact Laws.OpcodeField.finalize

theorem decode_encode (i : Instr) : decode (encode i) = .command i := by
  have hop := op_encode i
  cases i with
  | nop => exact decode_of_op_nop hop
  | init => exact decode_of_op_init hop
  | resume tag count => rw [decode_of_op_resume hop, encode, tag_commandWord, count_commandWord]
  | absorb b => rw [decode_of_op_absorb hop, encode, byte_commandWord]
  | finalize => exact decode_of_op_finalize hop

theorem canonical_encode (i : Instr) : Canonical (encode i) := by
  have hop := op_encode i
  have hzero (op : Byte) : (commandWord 0 0 0 op).byte = 0 ∧ (commandWord 0 0 0 op).tag = 0 ∧
      (commandWord 0 0 0 op).count = 0 :=
    ⟨byte_commandWord _ _ _ _, tag_commandWord _ _ _ _, count_commandWord _ _ _ _⟩
  cases i with
  | nop => exact .inl ⟨.inl hop, hzero _⟩
  | init => exact .inl ⟨.inr (.inl hop), hzero _⟩
  | resume tag count => exact .inr (.inl ⟨hop, byte_commandWord _ _ _ _⟩)
  | absorb b => exact .inr (.inr ⟨hop, tag_commandWord _ _ _ _, count_commandWord _ _ _ _⟩)
  | finalize => exact .inl ⟨.inr (.inr hop), hzero _⟩

/-- What the decoder reads from a canonical word has that word as its encoding. -/
theorem encode_eq_of_canonical {cw : CommandWord} {i : Instr} (hd : decode cw = .command i) (hc : Canonical cw) :
    encode i = cw := by
  rw [← commandWord_fields cw]
  rcases hc with ⟨hop | hop | hop, hbyte, htag, hcount⟩ | ⟨hop, hbyte⟩ | ⟨hop, htag, hcount⟩
  · obtain rfl : Instr.nop = i := by simpa [decode_of_op_nop hop] using hd
    rw [hop, hbyte, htag, hcount, encode, Instr.opcode]
  · obtain rfl : Instr.init = i := by simpa [decode_of_op_init hop] using hd
    rw [hop, hbyte, htag, hcount, encode, Instr.opcode]
  · obtain rfl : Instr.finalize = i := by simpa [decode_of_op_finalize hop] using hd
    rw [hop, hbyte, htag, hcount, encode, Instr.opcode]
  · obtain rfl : Instr.resume cw.tag cw.count = i := by simpa [decode_of_op_resume hop] using hd
    rw [hop, hbyte, encode, Instr.opcode]
  · obtain rfl : Instr.absorb cw.byte = i := by simpa [decode_of_op_absorb hop] using hd
    rw [hop, htag, hcount, encode, Instr.opcode]

/-- The decoder reads nothing but the opcode and the fields its row names. -/
theorem decode_congr {cw cw' : CommandWord} (hop : cw.op = cw'.op)
    (hresume : cw.op = 0x02 → cw.tag = cw'.tag ∧ cw.count = cw'.count)
    (habsorb : cw.op = 0x03 → cw.byte = cw'.byte) : decode cw = decode cw' := by
  rcases cw.op_cases with h | h | h | h | h | h
  · rw [decode_of_op_nop h, decode_of_op_nop (hop ▸ h)]
  · rw [decode_of_op_init h, decode_of_op_init (hop ▸ h)]
  · obtain ⟨htag, hcount⟩ := hresume h
    rw [decode_of_op_resume h, decode_of_op_resume (hop ▸ h), htag, hcount]
  · rw [decode_of_op_absorb h, decode_of_op_absorb (hop ▸ h), habsorb h]
  · rw [decode_of_op_finalize h, decode_of_op_finalize (hop ▸ h)]
  · rw [decode_of_op_reserved h, decode_of_op_reserved (hop ▸ h), hop]

/-- A command word acts on the state through what the decoder reads from it. -/
theorem Machine.step_present_congr {cw cw' : CommandWord} (h : decode cw = decode cw') (s : State) :
    step (present (.command cw) s) = step (present (.command cw') s) := by
  simp only [step, nextEvent_present, h]

/-! ### The display form (R149) -/

namespace Machine

theorem hexNibble_hexChar : ∀ n : BitVec 4, hexNibble (hexChar n) = n := by decide

theorem hexChar_mem_hexAlphabet : ∀ n : BitVec 4, hexChar n ∈ hexAlphabet := by decide

/-- A nibble is below 16, so its digit is in the alphabet whatever stands for a missing one. -/
theorem hexChar_eq_getD (n : BitVec 4) (d : Char) : hexChar n = hexAlphabet.getD n.toNat d := by
  have hn : n.toNat < hexAlphabet.length := n.isLt
  rw [hexChar, List.getD_eq_getElem _ _ hn, List.getD_eq_getElem _ _ hn]

theorem highNibble_toNat (b : Byte) : (b.extractLsb' 4 4).toNat = b.toNat / 16 := by
  have hb := b.isLt
  rw [BitVec.extractLsb'_toNat, Nat.shiftRight_eq_div_pow]
  omega

theorem lowNibble_toNat (b : Byte) : (b.extractLsb' 0 4).toNat = b.toNat % 16 := by
  rw [BitVec.extractLsb'_toNat, Nat.shiftRight_zero]

theorem hexstr_cons (b : Byte) (t : List Byte) :
    hexstr (b :: t) = hexChar (b.extractLsb' 4 4) :: hexChar (b.extractLsb' 0 4) :: hexstr t := rfl

theorem length_hexstr (t : List Byte) : (hexstr t).length = 2 * t.length := by
  induction t with
  | nil => rfl
  | cons b t ih => rw [hexstr_cons, List.length_cons, List.length_cons, List.length_cons, ih]; omega

theorem mem_hexAlphabet_of_mem_hexstr {t : List Byte} {c : Char} (h : c ∈ hexstr t) : c ∈ hexAlphabet := by
  obtain ⟨b, -, hc⟩ := List.mem_flatMap.1 h
  rcases List.mem_pair.1 hc with rfl | rfl
  · exact hexChar_mem_hexAlphabet _
  · exact hexChar_mem_hexAlphabet _

theorem unhex_hexstr (t : List Byte) : unhex (hexstr t) = t := by
  induction t with
  | nil => rfl
  | cons b t ih =>
    have hb : b.extractLsb' 4 4 ++ b.extractLsb' 0 4 = b := BitVec.extractLsb'_append_extractLsb'
    rw [hexstr_cons, unhex, hexNibble_hexChar, hexNibble_hexChar, hb, ih]

/-- Characters 2j and 2j + 1 are the digits of byte j. -/
theorem getD_hexstr {t : List Byte} {j : Nat} (hj : j < t.length) (d : Char) :
    (hexstr t).getD (2 * j) d = hexAlphabet.getD ((t.getD j 0).toNat / 16) d ∧
    (hexstr t).getD (2 * j + 1) d = hexAlphabet.getD ((t.getD j 0).toNat % 16) d := by
  induction t generalizing j with
  | nil => exact absurd hj (Nat.not_lt_zero j)
  | cons b t ih =>
    rw [hexstr_cons, hexChar_eq_getD _ d, hexChar_eq_getD _ d, highNibble_toNat, lowNibble_toNat]
    cases j with
    | zero => exact ⟨rfl, rfl⟩
    | succ j => exact ih (Nat.lt_of_succ_lt_succ hj)

end Machine

/-! ### The assembler (R68) -/

theorem tagDigitsWellFormed_hexstr {t : List Byte} (ht : t.length = 16) : tagDigitsWellFormed (hexstr t) = true := by
  rw [tagDigitsWellFormed, length_hexstr, ht, Bool.and_eq_true]
  exact ⟨rfl, List.all_eq_true.2 fun c hc => List.contains_iff_mem.2 (mem_hexAlphabet_of_mem_hexstr hc)⟩

theorem AsmLine.toInstr_eq_none_iff (l : AsmLine) : l.toInstr = none ↔ l.wellFormed = false := by
  cases hl : l.wellFormed with
  | false => simp [toInstr, hl]
  | true => cases l <;> simp [toInstr, hl]

theorem AsmLine.exists_toInstr_iff (l : AsmLine) : (∃ i, l.toInstr = some i) ↔ l.wellFormed = true := by
  rw [← Option.ne_none_iff_exists', Ne, toInstr_eq_none_iff, Bool.not_eq_false]

theorem AsmLine.toInstr_resume {tag : List Char} {n : Nat} (htag : tagDigitsWellFormed tag = true) (hn : n < 2 ^ 64) :
    (AsmLine.resume tag n).toInstr = some (.resume (le128 (unhex tag)) (BitVec.ofNat 64 n)) :=
  if_pos (by rw [wellFormed, htag, countWellFormed, decide_eq_true hn, Bool.and_self])

theorem AsmLine.toInstr_absorb {b : AsmByte} (hb : b.wellFormed = true) :
    (AsmLine.absorb b).toInstr = some (.absorb b.value) :=
  if_pos hb

/-- A listing whose lines stand for commands is the words of its lines, row by row. -/
theorem assemble_of_toInstr (ps : List (AsmRow × Instr)) (h : ∀ p ∈ ps, p.1.line.toInstr = some p.2) :
    assemble (ps.map Prod.fst) = some (ps.flatMap fun p => List.replicate p.1.times (encode p.2)) := by
  induction ps with
  | nil => rfl
  | cons p ps ih =>
    obtain ⟨hp, hps⟩ := List.forall_mem_cons.1 h
    rw [List.map_cons, assemble, hp, ih hps, List.flatMap_cons]

/-- One line that stands for no command leaves the listing without words. -/
theorem assemble_eq_none {rows : List AsmRow} {r : AsmRow} (hr : r ∈ rows) (hl : r.line.toInstr = none) :
    assemble rows = none := by
  induction hr with
  | head rows => rw [assemble, hl]
  | tail r' _ ih =>
    rw [assemble, ih]
    cases r'.line.toInstr <;> rfl

end Sys2Proof

/-- Settles O9: the encoder writes each operand into the field the opcode's row reads it from. -/
theorem decodeOfEncodeIsTheCommand : Obligations.DecodeOfEncodeIsTheCommand :=
  decode_encode

/-- Settles O6: the number CW mod 2^8 is the opcode, and the operands are the fields as numbers. -/
theorem decoderFollowsTheOpcodeMap : Obligations.DecoderFollowsTheOpcodeMap := by
  intro cw
  refine ⟨fun h => ?_, fun h => ?_, fun h => ?_, fun h => ?_, fun h => ?_, fun h => ?_⟩
  · exact decode_of_op_nop ((cw.op_eq_iff 0).2 h)
  · exact decode_of_op_init ((cw.op_eq_iff 1).2 h)
  · rw [decode_of_op_resume ((cw.op_eq_iff 2).2 h), ← cw.tag_toNat, ← cw.count_toNat, BitVec.ofNat_toNat,
      BitVec.ofNat_toNat, BitVec.setWidth_eq, BitVec.setWidth_eq]
  · rw [decode_of_op_absorb ((cw.op_eq_iff 3).2 h), ← cw.byte_toNat, BitVec.ofNat_toNat, BitVec.setWidth_eq]
  · exact decode_of_op_finalize ((cw.op_eq_iff 4).2 h)
  · rw [← cw.op_toNat] at h ⊢
    rw [decode_of_op_reserved h, BitVec.ofNat_toNat, BitVec.setWidth_eq]

/-- Settles O7: each operand is a slice of the command word, and a 128-bit number is the sum of its 16 bytes. -/
theorem operandsAreFieldsOfTheCommandWord : Obligations.OperandsAreFieldsOfTheCommandWord := fun cw =>
  ⟨cw.byte_toNat, cw.count_toNat, cw.tag_toNat, cw.bytes128_tag, (le128_bytes128 cw.tag).symm⟩

/-- Settles O8: the decoder reads the used fields only, and a step sees the word through the decoder. -/
theorem unusedFieldsAreIgnoredAndWrittenAsZero : Obligations.UnusedFieldsAreIgnoredAndWrittenAsZero := by
  refine ⟨fun s cw cw' hop hresume habsorb => ?_, canonical_encode⟩
  have hd := decode_congr hop hresume habsorb
  exact ⟨hd, step_present_congr hd s⟩

/-- Settles O10: the encoder writes canonical words only, and a canonical word is its fields put together. -/
theorem canonicalWordsAreTheEncodersWords : Obligations.CanonicalWordsAreTheEncodersWords := fun _ i hd =>
  ⟨fun h => h ▸ canonical_encode i, encode_eq_of_canonical hd⟩

/-- Settles O12: line by line, and the two laws of a listing by induction on its rows. -/
theorem assemblerReadsTheDisplayForm : Obligations.AssemblerReadsTheDisplayForm := by
  refine ⟨AsmLine.exists_toInstr_iff, rfl, rfl, rfl, fun t n ht hn => ?_, fun n hn => ?_, fun c hc => ?_,
    assemble_of_toInstr, fun rows ⟨r, hr, hl⟩ => ?_⟩
  · rw [AsmLine.toInstr_resume (tagDigitsWellFormed_hexstr ht) hn, unhex_hexstr]
  · exact ⟨_, AsmLine.toInstr_absorb (decide_eq_true hn), Nat.mod_eq_of_lt hn⟩
  · exact ⟨_, AsmLine.toInstr_absorb (decide_eq_true hc), Nat.mod_eq_of_lt (by omega)⟩
  · exact assemble_eq_none hr (r.line.toInstr_eq_none_iff.2 hl)

/-- Settles O52: byte by byte, each digit the one of its nibble, from which the nibble is read back. -/
theorem displayFormOfADigest : Obligations.DisplayFormOfADigest := fun t =>
  ⟨length_hexstr t, fun _ => mem_hexAlphabet_of_mem_hexstr, unhex_hexstr t, fun _ hj => getD_hexstr hj 'x'⟩

/-- Settles O11: the encoder writes the printed words, so the decoder reads them back. -/
theorem workedEncodingsAgree : Obligations.WorkedEncodingsAgree := by
  refine ⟨fun p hp => ?_, decode_of_op_reserved (by decide)⟩
  have hword : encode p.1 = p.2 := by
    revert p
    decide
  exact ⟨hword, hword ▸ decode_encode p.1⟩

end

section
/-! The statements of spec/40_commands.md: what each command makes of the state (R80 to R83, R134), the lifecycle (R79),
PUSH and the block-sequence law (R84, R85, R86), and how a message continues from an injected state (R157). -/

open Sys2Proof Sys2Proof.Machine

namespace Sys2Proof.Machine

variable {s t : State}

/-! ### INIT and RESUME (R81, R82) -/

theorem exec_init (s : State) : exec .init s = .next { s with h := iv, blen := 0, count := 0, phase := .active } := rfl

theorem exec_resume (tag : BitVec 128) (n : BitVec 64) (s : State) :
    exec (.resume tag n) s =
      .next { s with h := deser (bytes128 tag), blen := 0, count := n, phase := .active } := rfl

/-- Whatever two engines held, a message started from the same H and COUNT looks the same but for a recorded fault. -/
theorem sameVisible_of_start (herr : s.err = t.err) (hcause : s.cause = t.cause) (hhost : s.host = t.host) (x : Words4)
    (n : BitVec 64) :
    SameVisible { s with h := x, blen := 0, count := n, phase := .active }
      { t with h := x, blen := 0, count := n, phase := .active } :=
  ⟨rfl, rfl, fun _ ha => absurd ha (Nat.not_lt_zero _), rfl, rfl, herr, hcause, hhost⟩

theorem digestOut_of_h_iv (h : s.h = iv) : digestOut s = 0x1032547698BADCFEEFCDAB8967452301 := by
  apply BitVec.eq_of_toNat_eq
  rw [digestOut_toNat, h]
  rfl

/-! ### SER and DESER undo each other (R146, R148) -/

theorem bytes128_le128 {t : List Byte} (ht : t.length = 16) : bytes128 (le128 t) = t := by
  have h := bytesLE_leSum t 128 (by omega)
  rwa [ht] at h

theorem bytes32_le32 (b0 b1 b2 b3 : Byte) : bytes32 (le32 b0 b1 b2 b3) = [b0, b1, b2, b3] := by
  rw [le32_eq_leSum]
  exact bytesLE_leSum [b0, b1, b2, b3] 32 le_rfl

theorem le32_bytes32 (w : Word) :
    le32 (w.extractLsb' 0 8) (w.extractLsb' 8 8) (w.extractLsb' 16 8) (w.extractLsb' 24 8) = w := by
  have hsum : leSum (bytes32 w) = w.toNat % 2 ^ 32 := leSum_bytesLE w 4
  rw [Nat.mod_eq_of_lt w.isLt] at hsum
  rw [le32_eq_leSum]
  exact (congrArg (BitVec.ofNat 32) hsum).trans (by rw [BitVec.ofNat_toNat, BitVec.setWidth_eq])

theorem deser_ser (h : Words4) : deser (ser h) = h := by
  simp only [deser]
  congr
  · exact le32_bytes32 h.a
  · exact le32_bytes32 h.b
  · exact le32_bytes32 h.c
  · exact le32_bytes32 h.d

theorem ser_deser {t : List Byte} (ht : t.length = 16) : ser (deser t) = t := by
  match t, ht with
  | [t0, t1, t2, t3, t4, t5, t6, t7, t8, t9, t10, t11, t12, t13, t14, t15], _ =>
    simp only [ser, deser, deserWord, bytes32_le32]
    rfl

/-! ### Faults (R177) -/

theorem faultTaken_raiseFault (q : FaultCause) (s : State) : FaultTaken q.code s (raiseFault q s) where
  same := by constructor <;> simp
  err := raiseFault_err s q
  cause := raiseFault_cause s q

/-! ### PUSH (R84, R86) -/

@[simp] theorem State.setCount_pending (s : State) (n : BitVec 64) : (s.setCount n).pending = s.pending := rfl

/-- COUNT takes no part in a COMPRESS. -/
theorem compressOp_setCount (s : State) (n : BitVec 64) : compressOp (s.setCount n) = (compressOp s).setCount n := by
  simp only [compressOp, accumOp]
  rfl

/-- COUNT takes no part in a PUSH. -/
theorem pushByte_setCount (v : Byte) (s : State) (n : BitVec 64) :
    pushByte v (s.setCount n) = (pushByte v s).setCount n := by
  by_cases h : s.blen = 63
  · rw [pushByte_of_eq s v h, pushByte_of_eq (s.setCount n) v h]
    exact congrArg (·.setBlen 0) (compressOp_setCount (s.setBufByte 63 v) n)
  · rw [pushByte_of_ne s v h, pushByte_of_ne (s.setCount n) v h]
    rfl

theorem pushBytes_setCount (vs : List Byte) (s : State) (n : BitVec 64) :
    pushBytes vs (s.setCount n) = (pushBytes vs s).setCount n := by
  induction vs generalizing s with
  | nil => rfl
  | cons v vs ih => rw [pushBytes_cons, pushByte_setCount, ih, pushBytes_cons]

/-- The bytes left over behind the whole blocks of a byte sequence. -/
def afterWholeBlocks (p : List Byte) : List Byte :=
  p.drop (64 * (p.length / 64))

theorem afterWholeBlocks_of_length_lt {p : List Byte} (hp : p.length < 64) : afterWholeBlocks p = p := by
  rw [afterWholeBlocks, Nat.div_eq_of_lt hp, Nat.mul_zero, List.drop_zero]

theorem afterWholeBlocks_block_append {b : List Byte} (hb : b.length = 64) (p : List Byte) :
    afterWholeBlocks (b ++ p) = afterWholeBlocks p := by
  have hq : 64 * ((b ++ p).length / 64) = b.length + 64 * (p.length / 64) := by rw [List.length_append]; omega
  rw [afterWholeBlocks, hq, List.drop_length_add_append, afterWholeBlocks]

theorem pushBytes_pending (vs : List Byte) (s : State) :
    (pushBytes vs s).pending = afterWholeBlocks (s.pending ++ vs) := by
  induction vs generalizing s with
  | nil =>
    have hlen : s.pending.length < 64 := by rw [length_pending]; exact s.blen.isLt
    rw [pushBytes_nil, List.append_nil, afterWholeBlocks_of_length_lt hlen]
  | cons v vs ih =>
    have hsplit : s.pending ++ v :: vs = s.pending ++ [v] ++ vs := by simp
    rw [pushBytes_cons, ih, hsplit]
    by_cases hb : s.blen = 63
    · have hlen : (s.pending ++ [v]).length = 64 := by simp [length_pending, hb]
      rw [pushByte_pending_of_eq v hb, List.nil_append, afterWholeBlocks_block_append hlen]
    · rw [pushByte_pending_of_ne v hb]

theorem pushBytes_blen_toNat (vs : List Byte) (s : State) :
    (pushBytes vs s).blen.toNat = (s.pending ++ vs).length % 64 := by
  rw [pushBytes_blen, BitVec.toNat_add, BitVec.toNat_ofNat, List.length_append, length_pending]
  omega

/-- A run of PUSHes writes the cells from BLEN on, round the buffer, and no other. -/
theorem pushBytes_readByte_other (vs : List Byte) (s : State) {a : Nat}
    (ha : ∀ k, k < vs.length → a ≠ (s.blen.toNat + k) % 64) :
    (pushBytes vs s).buf.readByte a = s.buf.readByte a := by
  induction vs generalizing s with
  | nil => rfl
  | cons v vs ih =>
    have hfirst : a ≠ s.blen.toNat := by
      have h0 := ha 0 (by simp)
      rwa [Nat.add_zero, Nat.mod_eq_of_lt s.blen.isLt] at h0
    have hrest : ∀ k, k < vs.length → a ≠ ((pushByte v s).blen.toNat + k) % 64 := by
      intro k hk
      have hnext : ((pushByte v s).blen.toNat + k) % 64 = (s.blen.toNat + (k + 1)) % 64 := by
        have hblen : (s.blen + 1).toNat = (s.blen.toNat + 1) % 64 := BitVec.toNat_add _ _
        rw [pushByte_blen, hblen]
        omega
      rw [hnext]
      exact ha (k + 1) (by simpa using hk)
    rw [pushBytes_cons, ih _ hrest, pushByte_buf, Memory.readByte_writeByte_other _ v hfirst]

/-! ### The padding as bytes (R131 to R133) -/

theorem lengthField_eq (count : BitVec 64) : lengthField count = BitVec.ofNat 64 (8 * count.toNat) := by
  apply BitVec.eq_of_toNat_eq
  rw [lengthField, BitVec.toNat_shiftLeft, BitVec.toNat_ofNat, Nat.shiftLeft_eq, Nat.mul_comm]

/-- The zero fill of an engine with n pending bytes. -/
theorem zeroFill_of_lt {n : Nat} (hn : n < 64) : zeroFill n = (119 - n) % 64 := by
  rw [zeroFill, Nat.mod_eq_of_lt hn]

/-- The padding pushed with n bytes pending and L counted is pad(L) when the two agree mod 64. -/
theorem padBytes_eq_pad {n L : Nat} (h : n % 64 = L % 64) : padBytes n (BitVec.ofNat 64 L) = pad L := by
  have hfield : lengthField (BitVec.ofNat 64 L) = BitVec.ofNat 64 (8 * L) := by
    rw [lengthField_eq]
    apply BitVec.eq_of_toNat_eq
    simp only [BitVec.toNat_ofNat]
    omega
  rw [padBytes, pad, hfield, zeroFill, zeroFill, h]

/-! ### Runs of host events -/

theorem runEvents_issueOf {i : Instr} (h : exec i s = .next t) (es : List HostEvent) :
    runEvents (issueOf i :: es) s = runEvents es t := by
  rw [runEvents, issueOf, step_present_command (decode_encode i), h]

theorem runEvents_append {es : List HostEvent} (h : runEvents es s = .next t) (es' : List HostEvent) :
    runEvents (es ++ es') s = runEvents es' t := by
  induction es generalizing s with
  | nil =>
    obtain rfl : s = t := by simpa [runEvents] using h
    rfl
  | cons e es ih =>
    rw [runEvents] at h
    rw [List.cons_append, runEvents]
    cases hstep : step (present e s) with
    | next u =>
      rw [hstep] at h
      exact ih h
    | fault r => cases r
    | refused r => simp [hstep] at h

theorem updateSeq_append (x y : List Byte) : updateSeq (x ++ y) = updateSeq x ++ updateSeq y :=
  List.map_append

theorem flatMap_updateSeq (parts : List (List Byte)) : parts.flatMap updateSeq = updateSeq parts.flatten := by
  induction parts with
  | nil => rfl
  | cons x parts ih => rw [List.flatMap_cons, ih, List.flatten_cons, updateSeq_append]

/-- In phase ACTIVE, UPDATE x pushes the bytes of x and counts them (R83, R155). -/
theorem runEvents_updateSeq (x : List Byte) (hp : s.phase = .active) :
    runEvents (updateSeq x) s = .next ((pushBytes x s).setCount (s.count + BitVec.ofNat 64 x.length)) := by
  induction x generalizing s with
  | nil => simp [updateSeq, runEvents, State.setCount]
  | cons b x ih =>
    have hcount : s.count + 1 + BitVec.ofNat 64 x.length = s.count + BitVec.ofNat 64 (x.length + 1) := by
      rw [BitVec.add_assoc, Nat.add_comm x.length, BitVec.ofNat_add]
      rfl
    have hp' : (pushByte b (s.setCount (s.count + 1))).phase = .active := by simpa using hp
    calc runEvents (updateSeq (b :: x)) s
        = runEvents (updateSeq x) (pushByte b (s.setCount (s.count + 1))) :=
          runEvents_issueOf (exec_absorb_of_active b hp) _
      _ = .next ((pushBytes (b :: x) s).setCount (s.count + BitVec.ofNat 64 (b :: x).length)) := by
          rw [ih hp', pushByte_setCount, pushBytes_setCount, State.setCount_count, hcount]
          rfl

/-- UPDATE x and FINALIZE, where the fill count follows the byte counter: what is pushed behind the pending bytes is x
and the padding of COUNT + len(x) (R136). -/
theorem runEvents_updateSeq_finalize (x : List Byte) (hp : s.phase = .active)
    (hfill : s.blen.toNat = s.count.toNat % 64) :
    ∃ u, runEvents (updateSeq x ++ [issueOf .finalize]) s = .next u ∧
      u.h = chain s.h (s.pending ++ (x ++ pad (s.count.toNat + x.length))) ∧
      u.phase = .done ∧ u.err = s.err ∧ u.cause = s.cause ∧ u.host = s.host := by
  have hcount : s.count + BitVec.ofNat 64 x.length = BitVec.ofNat 64 (s.count.toNat + x.length) := by
    rw [BitVec.ofNat_add, BitVec.ofNat_toNat, BitVec.setWidth_eq]
  have hblen : (pushBytes x s).blen.toNat % 64 = (s.count.toNat + x.length) % 64 := by
    rw [pushBytes_blen_toNat, List.length_append, length_pending]
    omega
  have hp' : ((pushBytes x s).setCount (s.count + BitVec.ofNat 64 x.length)).phase = .active := by simpa using hp
  refine ⟨_, (runEvents_append (runEvents_updateSeq x hp) _).trans
    (runEvents_issueOf (exec_finalize_of_active hp') []), ?_, by simp⟩
  rw [State.setPhase_h, padSeq_eq, State.setCount_count, State.setCount_blen, hcount, padBytes_eq_pad hblen,
    pushBytes_setCount, State.setCount_h, ← pushBytes_append, pushBytes_h]

end Sys2Proof.Machine

/-- Settles O15: the tag's 16 bytes are the bytes DESER reads, and SER writes them back. -/
theorem resumeInjectsTheState : Obligations.ResumeInjectsTheState := by
  refine ⟨fun cw => decode_of_op_resume, fun t n s ht => ?_, fun tag n s => ?_, fun s => ?_⟩
  · rw [exec_resume, bytes128_le128 ht]
    rfl
  · refine ⟨_, exec_resume tag n s, ?_, rfl, rfl, rfl, rfl, rfl, rfl, rfl, rfl⟩
    exact (congrArg le128 (ser_deser (length_bytesLE 16 tag))).trans (le128_bytes128 tag)
  · rw [exec_resume, bytes128_le128 (length_ser iv), deser_ser, exec_init]

/-- Settles O43: below the end of the block PUSH is two writes; at the end it compresses the pending bytes and v. -/
theorem pushFillsAndCompresses : Obligations.PushFillsAndCompresses := fun v s =>
  ⟨fun hb => pushByte_of_ne s v hb, fun hb =>
    ⟨pushByte_h_of_eq v hb, by simp [hb], by simp [hb], pushByte_count s v, pushByte_phase s v, pushByte_err s v,
      pushByte_cause s v, pushByte_host s v⟩⟩

/-- Settles O16: in phase ACTIVE the two cases of PUSH on the state that counts the byte, in phase DONE the fault. -/
theorem absorbFeedsOneByte : Obligations.AbsorbFeedsOneByte := by
  refine ⟨fun cw => decode_of_op_absorb, fun b s => ⟨fun hp hb => ?_, fun hp hb => ?_, fun hp => ?_⟩⟩
  · rw [exec_absorb_of_active b hp, pushByte_setCount, pushByte_of_ne s b hb]
    rfl
  · refine ⟨_, exec_absorb_of_active b hp, ?_⟩
    rw [pushByte_setCount]
    simp [pushByte_h_of_eq b hb, hb, hp]
  · exact ⟨_, exec_absorb_of_done b hp, faultTaken_raiseFault .useAfterFinalize s⟩

/-- Settles O18: PADSEQ pushes the padding bytes, and a run of PUSHes folds the whole blocks into H. -/
theorem finalizePadsAndCompresses : Obligations.FinalizePadsAndCompresses := by
  refine ⟨fun cw => decode_of_op_finalize, fun s => ⟨fun hp => ?_, fun hp => ?_⟩⟩
  · refine ⟨_, exec_finalize_of_active hp, ?_, rdDigest_eq_ser _, ?_⟩
    · rw [State.setPhase_h, padSeq_h, padBytes, zeroFill_of_lt s.blen.isLt, lengthField_eq]
      simp only [List.append_assoc]
    · simp
  · exact ⟨_, exec_finalize_of_done hp, faultTaken_raiseFault .useAfterFinalize s⟩

/-- Settles O20: in phase ACTIVE by the cells a run of PUSHes writes, in phase DONE by the frame of a fault. -/
theorem finalizeFrame : Obligations.FinalizeFrame := by
  intro s t h
  cases hp : s.phase with
  | active =>
    obtain rfl : (padSeq s).setPhase .done = t := by simpa [exec_finalize_of_active hp] using h
    refine ⟨fun _ a ha => ?_, by simp, by simp, by simp, by simp, by simp⟩
    rw [State.setPhase_buf, padSeq_eq, pushBytes_readByte_other _ s ha]
  | done =>
    obtain rfl : raiseFault .useAfterFinalize s = t := by simpa [exec_finalize_of_done hp] using h
    simp [hp]

/-- Settles O26: each row is the event's own equation, on the state from which the event has been taken. -/
theorem lifecycleTable : Obligations.LifecycleTable := by
  intro s es
  refine ⟨fun hs => ⟨_, step_of_reset hs, rfl⟩, fun cw hs => ⟨fun hd => ?_, fun tag n hd => ?_, fun hd => ?_,
    fun b hd hp => ?_, fun hd hp => ?_, fun b hd hp => ?_, fun hd hp => ?_, fun op hd => ?_⟩⟩
  · exact ⟨_, step_of_command hs hd, rfl⟩
  · exact ⟨_, step_of_command hs hd, rfl⟩
  · exact step_of_command hs hd
  · refine ⟨_, (step_of_command hs hd).trans (exec_absorb_of_active b hp), ?_⟩
    simpa using hp
  · exact ⟨_, (step_of_command hs hd).trans (exec_finalize_of_active hp), rfl⟩
  · refine ⟨_, (step_of_command hs hd).trans (exec_absorb_of_done b hp), ?_, faultTaken_raiseFault .useAfterFinalize _⟩
    simpa using hp
  · refine ⟨_, (step_of_command hs hd).trans (exec_finalize_of_done hp), ?_, faultTaken_raiseFault .useAfterFinalize _⟩
    simpa using hp
  · exact ⟨_, step_of_illegal hs hd, raiseFault_phase _ _, faultTaken_raiseFault .illegalCommand _⟩

/-- Settles O44: H, BLEN and the pending bytes after a run of PUSHes are functions of the three before it. -/
theorem blocksAreIndependentOfPosition : Obligations.BlocksAreIndependentOfPosition := by
  intro vs s t hh hblen hpending
  refine ⟨?_, ?_, ?_⟩
  · rw [pushBytes_h, pushBytes_h, hh, hpending]
  · rw [pushBytes_blen, pushBytes_blen, hblen]
  · rw [pushBytes_pending, pushBytes_pending, hpending]

/-- Settles O53: UPDATE x is the run of PUSHes of x, which folds the whole blocks into H and leaves the rest pending. -/
theorem blockSequenceLaw : Obligations.BlockSequenceLaw := by
  intro x s hp
  refine ⟨_, runEvents_updateSeq x hp, pushBytes_h x s, pushBytes_pending x s, pushBytes_blen_toNat x s, ?_⟩
  simp [hp]

/-- Settles O57: RESUME empties the buffer, so what is pushed from there on is x and then the padding of c + len(x). -/
theorem resumeContinuesTheChain : Obligations.ResumeContinuesTheChain := by
  intro t x c s ht hc
  obtain ⟨u, hrun, hh, hphase, -⟩ := runEvents_updateSeq_finalize x
    (s := { s with h := deser (bytes128 (le128 t)), blen := 0, count := c, phase := .active }) rfl hc.symm
  refine ⟨u, (runEvents_issueOf (exec_resume _ _ _) _).trans hrun, ?_, ?_⟩
  · rw [rdDigest_eq_ser, hh, bytes128_le128 ht]
    rfl
  · rw [doneOut, hphase]
    rfl

/-- Settles O13: the decoder's row and the meaning of NOP. -/
theorem nopLeavesEveryField : Obligations.NopLeavesEveryField :=
  ⟨fun _ => decode_of_op_nop, fun _ => rfl⟩

/-- Settles O14: INIT writes four fields, and the digest it leaves is the number of IV. -/
theorem initMakesAFreshEngine : Obligations.InitMakesAFreshEngine := by
  refine ⟨fun cw => decode_of_op_init, exec_init, fun s t h => ?_, rfl⟩
  rw [exec_init] at h
  cases h
  exact ⟨digestOut_of_h_iv rfl, rfl⟩

/-- Settles O33: both commands start a message from an H and a COUNT that no earlier state enters. -/
theorem freshStartForgetsTheMessage : Obligations.FreshStartForgetsTheMessage := by
  rintro i s t (rfl | ⟨tag, n, rfl⟩) herr hcause hhost
  · exact ⟨_, _, exec_init s, exec_init t, sameVisible_of_start herr hcause hhost iv 0⟩
  · exact ⟨_, _, exec_resume tag n s, exec_resume tag n t,
      sameVisible_of_start herr hcause hhost (deser (bytes128 tag)) n⟩

/-- Settles O54: the ABSORBs of the parts, one after the other, are those of the whole. -/
theorem updatesMayBeSplitAnywhere : Obligations.UpdatesMayBeSplitAnywhere := by
  intro parts after s
  rw [flatMap_updateSeq]

end

section
/-! The statements of spec/41_compress.md: the step table (R101, R102, R105, R113), LDM (R103), the mixing functions
(R104), STEP and ACCUM (R106, R108), and COMPRESS as the run of its 64 steps (R109). -/

open Sys2Proof Sys2Proof.Machine

namespace Sys2Proof.Machine

/-! ### F, one equation a round (R104) -/

theorem mixF_round0 (b c d : Word) : mixF 0 b c d = b &&& c ||| ~~~b &&& d := rfl

theorem mixF_round1 (b c d : Word) : mixF 1 b c d = b &&& d ||| ~~~d &&& c := rfl

theorem mixF_round2 (b c d : Word) : mixF 2 b c d = b ^^^ c ^^^ d := rfl

theorem mixF_round3 (b c d : Word) : mixF 3 b c d = c ^^^ (b ||| ~~~d) := rfl

/-- Bit by bit, `(x AND y) OR (NOT x AND z)` selects y where x is 1 and z where x is 0. -/
theorem getLsbD_select (x y z : Word) {k : Nat} (hk : k < 32) :
    (x &&& y ||| ~~~x &&& z).getLsbD k = if x.getLsbD k then y.getLsbD k else z.getLsbD k := by
  simp only [BitVec.getLsbD_or, BitVec.getLsbD_and, BitVec.getLsbD_not, hk]
  cases x.getLsbD k <;> simp

/-! ### G, one formula a round, and its inverse in the round (R105) -/

theorem msgIndex_round0 {i : Nat} (h : i < 16) : msgIndex i = i := by
  have hr : roundOf i = 0 := Nat.div_eq_of_lt h
  simp [msgIndex, hr]

theorem msgIndex_round1 {i : Nat} (h : 16 ≤ i) (h' : i < 32) : msgIndex i = (5 * i + 1) % 16 := by
  have hr : roundOf i = 1 := by unfold roundOf; omega
  simp [msgIndex, hr]

theorem msgIndex_round2 {i : Nat} (h : 32 ≤ i) (h' : i < 48) : msgIndex i = (3 * i + 5) % 16 := by
  have hr : roundOf i = 2 := by unfold roundOf; omega
  simp [msgIndex, hr]

theorem msgIndex_round3 {i : Nat} (h : 48 ≤ i) : msgIndex i = (7 * i) % 16 := by
  have hr : 3 ≤ roundOf i := by unfold roundOf; omega
  rw [msgIndex, if_neg (by omega), if_neg (by omega), if_neg (by omega)]

theorem msgIndex_lt (i : Nat) : msgIndex i < 16 := by
  unfold msgIndex roundOf
  split_ifs <;> omega

/-- The factors 1, 5, 3 and 7 of the four rounds have the inverses 1, 13, 11 and 7 mod 16, so in each round the place of
a word's step is a function of the word's index. -/
theorem msgIndex_eq_iff_in_round {r : Nat} (hr : r < 4) :
    ∃ a b, ∀ j k, j < 16 → k < 16 → (msgIndex (16 * r + k) = j ↔ k = (a * j + b) % 16) := by
  interval_cases r
  · refine ⟨1, 0, fun j k hj hk => ?_⟩
    rw [msgIndex_round0 (by omega)]
    omega
  · refine ⟨13, 3, fun j k hj hk => ?_⟩
    rw [msgIndex_round1 (by omega) (by omega)]
    omega
  · refine ⟨11, 9, fun j k hj hk => ?_⟩
    rw [msgIndex_round2 (by omega) (by omega)]
    omega
  · refine ⟨7, 0, fun j k hj hk => ?_⟩
    rw [msgIndex_round3 (by omega)]
    omega

/-! ### S (R102) -/

theorem rotationTable_bounds : ∀ r < 4, ∀ k < 4,
    4 ≤ (rotationTable.getD r []).getD k 0 ∧ (rotationTable.getD r []).getD k 0 ≤ 23 := by decide

/-- S depends on the round and on the step number mod 4 only. -/
theorem rotAmount_congr {i i' : Nat} (hround : i / 16 = i' / 16) (hplace : i % 4 = i' % 4) :
    rotAmount i = rotAmount i' := by
  rw [rotAmount, rotAmount, hround, hplace]

/-- The amounts of a round's first four steps repeat four times. -/
theorem rotAmount_repeats {q i : Nat} (hq : q < 4) (hi : i % 16 < 4) : rotAmount (4 * q + i) = rotAmount i :=
  rotAmount_congr (by omega) (by omega)

/-! ### The message words (R103) -/

/-- Four bytes fill the 32 bits exactly. -/
theorem le32_toNat (b0 b1 b2 b3 : Byte) :
    (le32 b0 b1 b2 b3).toNat = b0.toNat + 2 ^ 8 * b1.toNat + 2 ^ 16 * b2.toNat + 2 ^ 24 * b3.toNat := by
  rw [le32, BitVec.toNat_ofNat, Nat.mod_eq_of_lt]
  omega

theorem ldm_getD (s : State) {j : Nat} (hj : j < 16) : (ldm s).getD j 0 = s.buf.readWord (4 * j) := by
  simp [ldm, hj]

theorem messageWords_getD (block : List Byte) {j : Nat} (hj : j < 16) :
    (messageWords block).getD j 0 =
      le32 (block.getD (4 * j) 0) (block.getD (4 * j + 1) 0) (block.getD (4 * j + 2) 0) (block.getD (4 * j + 3) 0) := by
  simp [messageWords, hj]

/-! ### The run of the working registers (R109) -/

/-- The working registers after the first n steps of `compress`. -/
def workAfter (h : Words4) (block : List Byte) (n : Nat) : Words4 :=
  (List.range n).foldl (stepWords (messageWords block)) h

theorem workAfter_zero (h : Words4) (block : List Byte) : workAfter h block 0 = h := rfl

theorem workAfter_succ (h : Words4) (block : List Byte) (n : Nat) :
    workAfter h block (n + 1) = stepWords (messageWords block) (workAfter h block n) n := by
  simp [workAfter, List.range_succ]

theorem compress_eq_addLanes (h : Words4) (block : List Byte) : compress h block = h.addLanes (workAfter h block 64) :=
  rfl

end Sys2Proof.Machine

/-- Settles O36: rounds 0 and 1 are selections, by b and by d; the bits of rounds 2 and 3 are the library's. -/
theorem mixingFunctionsBitByBit : Obligations.MixingFunctionsBitByBit := by
  intro b c d k hk
  refine ⟨?_, ?_, ?_, ?_⟩
  · rw [mixF_round0, getLsbD_select b c d hk]
  · rw [mixF_round1, BitVec.and_comm b d, getLsbD_select d b c hk]
  · rw [mixF_round2, BitVec.getLsbD_xor, BitVec.getLsbD_xor]
  · simp [mixF_round3, hk]

/-- Settles O39: word j of LDM is the four bytes from 4j on, and they fill it. -/
theorem ldmReadsLittleEndianWords : Obligations.LdmReadsLittleEndianWords := by
  refine fun s => ⟨by simp [ldm], fun j hj => ?_⟩
  rw [ldm_getD s hj, Memory.readWord, le32_toNat]

/-- Settles O42: the run is `workAfter`, whose steps read the message words where G points, and the engine's COMPRESS
computes the same function. -/
theorem compressRunsTheSixtyFourSteps : Obligations.CompressRunsTheSixtyFourSteps := by
  refine ⟨fun h block _ => ⟨workAfter h block, workAfter_zero h block, fun i _ => ?_, compress_eq_addLanes h block⟩,
    fun s => ?_⟩
  · rw [workAfter_succ, stepWords, stepSum, messageWords_getD block (msgIndex_lt i), roundOf]
  · exact ⟨compressOp_h_eq_compress s, compressOp_buf s, compressOp_blen s, compressOp_count s, compressOp_phase s,
      compressOp_err s, compressOp_cause s, compressOp_host s⟩

/-- Settles O37: the formulas round by round, and in each round the one step of word j by the inverse of the formula. -/
theorem messageIndexVisitsEveryWord : Obligations.MessageIndexVisitsEveryWord := by
  refine ⟨fun i _ => ⟨msgIndex_round0, msgIndex_round1, msgIndex_round2, msgIndex_round3⟩, fun r hr j hj => ?_⟩
  obtain ⟨a, b, hinv⟩ := msgIndex_eq_iff_in_round hr
  have hk : (a * j + b) % 16 < 16 := Nat.mod_lt _ (by decide)
  exact ⟨(a * j + b) % 16, hk, (hinv j _ hj hk).2 rfl, fun k' hk' => (hinv j k' hj hk').1⟩

/-- Settles O38: each amount is an entry of T, and the row of a round's first four steps repeats. -/
theorem rotationAmounts : Obligations.RotationAmounts := by
  refine ⟨fun i hi => rotationTable_bounds (i / 16) (by omega) (i % 4) (by omega), fun q hq => ?_⟩
  have hfirst : rotAmount (4 * q) = rotAmount 0 := rotAmount_repeats (i := 0) hq (by decide)
  simp only [Nat.add_comm _ (4 * q), rotAmount_repeats hq, hfirst, Nat.reduceMod, Nat.reduceLT]
  decide

/-- Settles O40: `stepOp` is the record of R106, and every right-hand side reads the registers from before. -/
theorem stepWritesTheFourRegistersTogether : Obligations.StepWritesTheFourRegistersTogether := fun _ _ => ⟨rfl, rfl⟩

/-- Settles O41: ACCUM writes H alone, with the lane-wise sum. -/
theorem accumAddsLaneByLane : Obligations.AccumAddsLaneByLane := fun _ _ => rfl

/-- Settles O60: a round's rows, evaluated. -/
theorem stepTableHasTheStatedRows : Obligations.StepTableHasTheStatedRows := ⟨rfl, rfl, rfl, rfl⟩

end

section
/-! The statements of spec/42_finalizer.md: the padding rule (R131), its length field (R132), how many blocks FINALIZE
compresses (R135), and what PADSEQ pushes and leaves (R136, R137). -/

open Sys2Proof Sys2Proof.Machine

namespace Sys2Proof.Machine

/-! ### The zero fill (R131) -/

/-- The subtraction below zero, in integers: the model's 119 is the rule's 55 plus the modulus. -/
theorem zeroFill_cast (L : Nat) : (zeroFill L : Int) = (55 - (L : Int)) % 64 := by
  unfold zeroFill
  omega

theorem zeroFill_lt (L : Nat) : zeroFill L < 64 := Nat.mod_lt _ (by decide)

theorem zeroFill_mod (L : Nat) : zeroFill (L % 64) = zeroFill L := by
  rw [zeroFill, zeroFill, Nat.mod_mod]

/-- Among the fills below 64, z(L) and no other reaches 56 mod 64. -/
theorem terminated_mod_eq_56_iff (L : Nat) {z : Nat} (hz : z < 64) : (L + 1 + z) % 64 = 56 ↔ z = zeroFill L := by
  unfold zeroFill
  omega

theorem zeroFill_of_le {n : Nat} (hn : n ≤ 55) : zeroFill n = 55 - n := by
  rw [zeroFill_of_lt (by omega)]
  omega

theorem zeroFill_of_ge {n : Nat} (hn : 56 ≤ n) (hn' : n < 64) : zeroFill n = 119 - n := by
  rw [zeroFill_of_lt hn']
  omega

/-! ### The length field (R132) -/

theorem length_bytes64 (v : BitVec 64) : (bytes64 v).length = 8 := length_bytesLE 8 v

theorem getD_bytes64 (v : BitVec 64) {k : Nat} (hk : k < 8) : (bytes64 v).getD k 0 = v.extractLsb' (8 * k) 8 := by
  simp [bytes64, bytesLE, hk]

theorem lengthField_toNat (count : BitVec 64) : (lengthField count).toNat = 8 * count.toNat % 2 ^ 64 := by
  rw [lengthField_eq, BitVec.toNat_ofNat]

/-! ### The padding as a whole (R131, R135) -/

theorem length_pad (L : Nat) : (pad L).length = 9 + zeroFill L := by
  rw [← padBytes_eq_pad (n := L) rfl, length_padBytes]

theorem padBytes_of_le {n : Nat} (hn : n ≤ 55) (count : BitVec 64) :
    padBytes n count = [0x80] ++ zeros (55 - n) ++ bytes64 (BitVec.ofNat 64 (8 * count.toNat)) := by
  rw [padBytes, zeroFill_of_le hn, lengthField_eq]

/-- From 56 pending bytes on, 63 − n zeros fill the first block and 56 more lead up to the length field. -/
theorem padBytes_of_ge {n : Nat} (hn : 56 ≤ n) (hn' : n < 64) (count : BitVec 64) :
    padBytes n count =
      [0x80] ++ zeros (63 - n) ++ (zeros 56 ++ bytes64 (BitVec.ofNat 64 (8 * count.toNat))) := by
  have hfill : 119 - n = (63 - n) + 56 := by omega
  rw [padBytes, zeroFill_of_ge hn hn', lengthField_eq, hfill, zeros_add]
  simp only [List.append_assoc]

theorem chain_block (h : Words4) {b : List Byte} (hb : b.length = 64) : chain h b = compress h b := by
  rw [← List.append_nil b, chain_block_append h hb, chain_of_length_lt _ (by decide), List.append_nil]

variable {s : State}

/-- With at most 55 bytes pending, they and the padding are one block. -/
theorem padSeq_h_of_le (hn : s.blen.toNat ≤ 55) :
    (padSeq s).h = compress s.h (s.pending ++ [0x80] ++ zeros (55 - s.blen.toNat) ++
      bytes64 (BitVec.ofNat 64 (8 * s.count.toNat))) := by
  rw [padSeq_h, padBytes_of_le hn, ← List.append_assoc, ← List.append_assoc, chain_block]
  simp only [List.length_append, List.length_singleton, length_pending, length_zeros, length_bytes64]
  omega

/-- With 56 bytes pending or more, the terminator and the first zeros fill their block, and the rest is a second one. -/
theorem padSeq_h_of_ge (hn : 56 ≤ s.blen.toNat) :
    (padSeq s).h = compress (compress s.h (s.pending ++ [0x80] ++ zeros (63 - s.blen.toNat)))
      (zeros 56 ++ bytes64 (BitVec.ofNat 64 (8 * s.count.toNat))) := by
  have hlt : s.blen.toNat < 64 := s.blen.isLt
  have hfirst : (s.pending ++ [0x80] ++ zeros (63 - s.blen.toNat)).length = 64 := by
    simp only [List.length_append, List.length_singleton, length_pending, length_zeros]
    omega
  have hsecond (v : BitVec 64) : (zeros 56 ++ bytes64 v).length = 64 := by
    rw [List.length_append, length_zeros, length_bytes64]
  have hsplit : s.pending ++ padBytes s.blen.toNat s.count = s.pending ++ [0x80] ++ zeros (63 - s.blen.toNat) ++
      (zeros 56 ++ bytes64 (BitVec.ofNat 64 (8 * s.count.toNat))) := by
    rw [padBytes_of_ge hn hlt]
    simp only [List.append_assoc]
  rw [padSeq_h, hsplit, chain_block_append _ hfirst, chain_block _ (hsecond _)]

end Sys2Proof.Machine

/-- Settles O19: the pending bytes and the padding are 64 bytes up to BLEN 55 and 128 from 56 on. -/
theorem finalizeCompressesOneOrTwoBlocks : Obligations.FinalizeCompressesOneOrTwoBlocks := by
  intro s t hp h
  obtain rfl : (padSeq s).setPhase .done = t := by simpa [exec_finalize_of_active hp] using h
  have hlt : s.blen.toNat < 64 := s.blen.isLt
  rw [State.setPhase_h, length_padBytes]
  refine ⟨fun hn => ?_, fun hn => ?_⟩
  · have hz := zeroFill_of_le hn
    exact ⟨padSeq_h_of_le hn, hz, by omega⟩
  · have hz := zeroFill_of_ge hn hlt
    exact ⟨padSeq_h_of_ge hn, hz, by omega⟩

/-- Settles O45: z(L) is the one fill below 64 that reaches 56 mod 64, and eight length bytes then reach 64. -/
theorem padFillsWholeBlocks : Obligations.PadFillsWholeBlocks := by
  intro L
  have hlt := zeroFill_lt L
  have hreach : (L + 1 + zeroFill L) % 64 = 56 := (terminated_mod_eq_56_iff L hlt).2 rfl
  have hleast : ∀ z, z < zeroFill L → (L + 1 + z) % 64 ≠ 56 := fun z hz h =>
    hz.ne ((terminated_mod_eq_56_iff L (hz.trans hlt)).1 h)
  have hfield : BitVec.ofNat 64 (8 * L % 2 ^ 64) = BitVec.ofNat 64 (8 * L) :=
    BitVec.eq_of_toNat_eq (by simp only [BitVec.toNat_ofNat, Nat.mod_mod])
  refine ⟨by rw [hfield, pad], zeroFill_cast L, (zeroFill_mod L).symm, hreach, hleast, length_pad L, ?_⟩
  rw [length_pad]
  omega

/-- Settles O46: the shift by 3 is the product by 8, and byte k of a word is its bits from 8k on. -/
theorem lengthFieldIsLittleEndianBitCount : Obligations.LengthFieldIsLittleEndianBitCount := by
  refine fun count => ⟨lengthField_toNat count, length_bytes64 _, fun k hk => ?_⟩
  rw [getD_bytes64 _ hk, BitVec.extractLsb'_toNat, Nat.shiftRight_eq_div_pow, lengthField_toNat]

/-- Settles O47: the zero fill sees the fill count and the byte counter mod 64 only, and there they agree. -/
theorem padSeqPushesPadOfCount : Obligations.PadSeqPushesPadOfCount := by
  intro s hfill
  have hmod : s.blen.toNat % 64 = s.count.toNat % 64 := by rw [hfill, Nat.mod_mod]
  have hpad := padBytes_eq_pad hmod
  rw [BitVec.ofNat_toNat, BitVec.setWidth_eq] at hpad
  rw [padSeq_eq, hpad]

/-- Settles O48: the padding ends at the end of a block. -/
theorem padSeqLeavesTheBufferEmpty : Obligations.PadSeqLeavesTheBufferEmpty := padSeq_blen

end

section
/-! The statements of spec/43_serializer.md on the byte order: SER lists the bytes of the four words (R145), DESER reads
the words back (R146), and each undoes the other (R148). -/

open Sys2Proof Sys2Proof.Machine

namespace Sys2Proof.Machine

theorem getD_bytes32 (w : Word) {n : Nat} (hn : n < 4) : (bytes32 w).getD n 0 = w.extractLsb' (8 * n) 8 := by
  simp [bytes32, bytesLE, hn]

/-- The four bytes of word k are the k-th group of four in `ser(h)`. -/
theorem take_drop_ser (h : Words4) (k : Fin 4) : ((ser h).drop (4 * k.val)).take 4 = bytes32 (h.word k) := by
  fin_cases k <;> rfl

theorem getD_ser (h : Words4) (k : Fin 4) {n : Nat} (hn : n < 4) :
    (ser h).getD (4 * k.val + n) 0 = (bytes32 (h.word k)).getD n 0 := by
  rw [← take_drop_ser, List.getD_eq_getElem?_getD, List.getD_eq_getElem?_getD, List.getElem?_take_of_lt hn,
    List.getElem?_drop]

theorem word_deser (t : List Byte) (k : Fin 4) : (deser t).word k = deserWord t k.val := by
  fin_cases k <;> rfl

end Sys2Proof.Machine

/-- Settles O49: a byte of `ser(h)` lies in one word's group of four, and `bytes32` lists that word from its low end. -/
theorem serListsTheWordsLittleEndian : Obligations.SerListsTheWordsLittleEndian := fun h =>
  ⟨length_ser h, fun k _ hn => (getD_ser h k hn).trans (getD_bytes32 (h.word k) hn)⟩

/-- Settles O50: DESER puts each word in its place, and the two inverse laws go back to `bytes32` against `le32`. -/
theorem serializerRoundTrips : Obligations.SerializerRoundTrips :=
  ⟨fun t k _ => word_deser t k, deser_ser, fun _ ht => ser_deser ht⟩

end

section
/-! The statements of spec/44_host_sequences.md: UPDATE after FINALIZE (R155), DIGEST (R158), and FORGE with the form of
its message (R161 to R163). -/

open Sys2Proof Sys2Proof.Machine

namespace Sys2Proof.Machine

variable {s : State}

/-! ### UPDATE in phase DONE (R155, R177) -/

/-- Behind the first fault a further one records nothing. -/
theorem raiseFault_of_err (q : FaultCause) (he : s.err = true) : raiseFault q s = s := by
  rw [raiseFault, recordFault, if_pos he]

theorem runEvents_updateSeq_of_done_of_err (x : List Byte) (hp : s.phase = .done) (he : s.err = true) :
    runEvents (updateSeq x) s = .next s := by
  induction x with
  | nil => rfl
  | cons b x ih =>
    calc runEvents (updateSeq (b :: x)) s
        = runEvents (updateSeq x) (raiseFault .useAfterFinalize s) := runEvents_issueOf (exec_absorb_of_done b hp) _
      _ = .next s := by rw [raiseFault_of_err _ he, ih]

/-- The first ABSORB records the fault, and the others find it recorded. -/
theorem runEvents_updateSeq_cons_of_done (b : Byte) (x : List Byte) (hp : s.phase = .done) :
    runEvents (updateSeq (b :: x)) s = .next (raiseFault .useAfterFinalize s) :=
  (runEvents_issueOf (exec_absorb_of_done b hp) _).trans
    (runEvents_updateSeq_of_done_of_err x (by rw [raiseFault_phase, hp]) (raiseFault_err s _))

/-! ### DIGEST (R157, R158) -/

theorem doneOut_of_done (hp : s.phase = .done) : doneOut s = 1 := by
  rw [doneOut, hp]
  rfl

/-- INIT empties the buffer and the byte counter, so DIGEST msg pushes msg and pad(len(msg)) from IV on. -/
theorem runEvents_digestSeq (msg : List Byte) (s : State) :
    ∃ t, runEvents (digestSeq msg) s = .next t ∧ rdDigest t = md5 msg ∧ doneOut t = 1 ∧
      t.err = s.err ∧ t.cause = s.cause ∧ t.host = s.host := by
  obtain ⟨t, hrun, hh, hphase, hkept⟩ := runEvents_updateSeq_finalize msg
    (s := { s with h := iv, blen := 0, count := 0, phase := .active }) rfl rfl
  have hh : t.h = chain iv (msg ++ pad (0 + msg.length)) := hh
  refine ⟨t, (runEvents_issueOf (exec_init s) _).trans hrun, ?_, doneOut_of_done hphase, hkept⟩
  rw [rdDigest_eq_ser, hh, Nat.zero_add, md5]

theorem length_md5 (msg : List Byte) : (md5 msg).length = 16 :=
  length_ser _

/-! ### A message continued behind its own padding (R162) -/

/-- A message with its padding is whole blocks. -/
theorem add_length_pad_mod (L : Nat) : (L + (pad L).length) % 64 = 0 := by
  rw [length_pad, zeroFill]
  omega

/-- Whole blocks are folded in before what follows them. -/
theorem chain_append (h : Words4) {p : List Byte} {q : Nat} (hp : p.length = 64 * q) (x : List Byte) :
    chain h (p ++ x) = chain (chain h p) x := by
  induction q generalizing h p with
  | zero =>
    obtain rfl : p = [] := List.eq_nil_of_length_eq_zero hp
    rw [List.nil_append, chain_of_length_lt h (p := []) (by decide)]
  | succ q ih =>
    have hblock : (p.take 64).length = 64 := by rw [List.length_take]; omega
    have hrest : (p.drop 64).length = 64 * q := by rw [List.length_drop]; omega
    rw [← List.take_append_drop 64 p, List.append_assoc, chain_block_append h hblock, chain_block_append h hblock,
      ih _ hrest]

/-- The digest of a message, its padding and more bytes goes on from the digest of the message. -/
theorem md5_pad_append (msg x : List Byte) :
    md5 (msg ++ pad msg.length ++ x) =
      ser (chain (deser (md5 msg)) (x ++ pad (msg.length + (pad msg.length).length + x.length))) := by
  have hlen : (msg ++ pad msg.length).length = 64 * ((msg.length + (pad msg.length).length) / 64) := by
    have hmod := add_length_pad_mod msg.length
    rw [List.length_append]
    omega
  rw [md5, md5, deser_ser, List.append_assoc _ x, chain_append iv hlen, List.length_append, List.length_append]

/-! ### FORGE (R161, R163) -/

theorem forgeCount_mod (keyLength : Nat) (known : List Byte) : forgeCount keyLength known % 64 = 0 :=
  add_length_pad_mod (keyLength + known.length)

theorem glue_eq (L : Nat) : glue L = [0x80] ++ zeros (zeroFill L) ++ bytes64 (BitVec.ofNat 64 (8 * L)) :=
  rfl

/-- Behind the key the forged message is the padded message of the tag, continued. -/
theorem key_append_forgedMessage (key known appended : List Byte) :
    key ++ forgedMessage key.length known appended =
      key ++ known ++ pad (key ++ known).length ++ appended := by
  rw [forgedMessage, glue, List.length_append]
  simp only [List.append_assoc]

end Sys2Proof.Machine

/-- Settles O55: the first ABSORB records the fault, the others find it recorded, and an empty UPDATE has none. -/
theorem updateAfterFinalizeOnlyRecordsTheFault : Obligations.UpdateAfterFinalizeOnlyRecordsTheFault := by
  intro x s hp
  refine ⟨fun hx => ?_, fun hx => ?_⟩
  · obtain ⟨b, y, rfl⟩ := List.exists_cons_of_ne_nil hx
    exact ⟨_, runEvents_updateSeq_cons_of_done b y hp, faultTaken_raiseFault .useAfterFinalize s⟩
  · rw [hx]
    rfl

/-- Settles O56: the run of DIGEST ends in md5(msg), whose length is that of a serialized state. -/
theorem digestReturnsMd5 : Obligations.DigestReturnsMd5 := by
  intro msg s
  obtain ⟨t, hrun, hdigest, hdone, herr, hcause, hhost⟩ := runEvents_digestSeq msg s
  exact ⟨t, hrun, herr, hcause, hhost, hdone, by rw [hdigest, length_md5], fun _ => hdigest⟩

/-- Settles O58: RESUME puts the forger's engine where the verifier's is behind the padding of key and known, and both
go on over the same bytes. -/
theorem forgedTagVerifies : Obligations.ForgedTagVerifies := by
  intro key known appended s s' s'' u hsize hu
  obtain ⟨u', hu', htag, -⟩ := runEvents_digestSeq (key ++ known) s
  obtain rfl : u = u' := Host.Outcome.next.inj (hu.symm.trans hu')
  have hcount : (BitVec.ofNat 64 (forgeCount key.length known)).toNat =
      (key ++ known).length + (pad (key ++ known).length).length := by
    rw [BitVec.toNat_ofNat, forgeCount, glue, ← List.length_append, Nat.mod_eq_of_lt (by omega)]
  obtain ⟨v, hv, hforged, hvdone⟩ := resumeContinuesTheChain (rdDigest u) appended
    (BitVec.ofNat 64 (forgeCount key.length known)) s' (by rw [htag, length_md5])
    (by rw [hcount, add_length_pad_mod])
  obtain ⟨w, hw, hverified, hwdone, -⟩ := runEvents_digestSeq (key ++ forgedMessage key.length known appended) s''
  refine ⟨v, w, hv, hw, ?_, hvdone, hwdone⟩
  rw [hforged, hverified, key_append_forgedMessage, md5_pad_append, htag, hcount]

/-- Settles O59: the middle of the glue is the zero fill, and the count is that of a padded message. -/
theorem forgedMessageHasTheStatedForm : Obligations.ForgedMessageHasTheStatedForm := by
  intro keyLength known appended
  refine ⟨zeros (zeroFill (keyLength + known.length)), ?_, glue_eq _, ?_, forgeCount_mod keyLength known⟩
  · rw [forgedMessage, glue_eq]
  · exact fun _ hb => List.eq_of_mem_replicate hb

end

section
/-! The statements of spec/60_exceptions.md: no step stops (R179, R199), what raises each of the two faults (R175, R176),
and that taking a fault is precise (R177). -/

open Sys2Proof Sys2Proof.Machine

namespace Sys2Proof.Machine

variable {s t : State}

/-! ### Every outcome is a next state (R179) -/

theorem exists_exec_eq_next (i : Instr) (s : State) : ∃ t, exec i s = .next t := by
  rcases exec_cases s i with ⟨-, h⟩ | ⟨-, h⟩ | ⟨tag, n, -, h⟩ | ⟨b, -, -, h⟩ | ⟨-, -, h⟩ | ⟨-, -, h⟩ <;> exact ⟨_, h⟩

theorem exists_step_eq_next (s : State) : ∃ t, step s = .next t := by
  rcases step_cases s with ⟨-, h⟩ | ⟨es, -, h⟩ | ⟨cw, es, i, -, -, h⟩ | ⟨cw, es, op, -, -, h⟩
  · exact ⟨_, h⟩
  · exact ⟨_, h⟩
  · rw [h]
    exact exists_exec_eq_next i _
  · exact ⟨_, h⟩

/-! ### UseAfterFinalize (R176) -/

theorem exec_useAfterFinalize {i : Instr} (hi : i = .finalize ∨ ∃ b, i = .absorb b) (hp : s.phase = .done) :
    exec i s = .next (raiseFault .useAfterFinalize s) := by
  rcases hi with rfl | ⟨b, rfl⟩
  · exact exec_finalize_of_done hp
  · exact exec_absorb_of_done b hp

/-- A command leaves ERR as it was unless it is an ABSORB or a FINALIZE in phase DONE. -/
theorem exec_err_or_useAfterFinalize {i : Instr} (h : exec i s = .next t) :
    t.err = s.err ∨
    ((i = .finalize ∨ ∃ b, i = .absorb b) ∧ s.phase = .done ∧ t = raiseFault .useAfterFinalize s) := by
  rcases exec_inv h with ⟨-, rfl⟩ | ⟨-, rfl⟩ | ⟨tag, n, -, rfl⟩ | ⟨b, -, -, rfl⟩ | ⟨-, -, rfl⟩ | hfault
  · exact .inl rfl
  · exact .inl rfl
  · exact .inl rfl
  · exact .inl (by simp)
  · exact .inl (by simp)
  · exact .inr hfault

/-- What a step did that left cause code 1 where no fault was recorded. -/
theorem step_inv_of_useAfterFinalize (herr : s.err = false) (hstep : step s = .next t) (hterr : t.err = true)
    (htcause : t.cause = 1) :
    ∃ cw es i, s.host = .command cw :: es ∧ decode cw = .command i ∧ (i = .finalize ∨ ∃ b, i = .absorb b) ∧
      s.phase = .done ∧ t = raiseFault .useAfterFinalize { s with host := es } := by
  rcases step_inv hstep with ⟨-, rfl⟩ | ⟨es, -, rfl⟩ | ⟨cw, es, i, hhost, hd, hexec⟩ | ⟨cw, es, op, -, -, rfl⟩
  · simp [herr] at hterr
  · simp at hterr
  · rcases exec_err_or_useAfterFinalize hexec with hkept | hfault
    · simp [hkept, herr] at hterr
    · exact ⟨cw, es, i, hhost, hd, hfault⟩
  · simp [raiseFault_cause, herr, FaultCause.code] at htcause

/-! ### Fault entry, and what commands make of a recorded fault (R177) -/

theorem raiseFault_of_no_err (q : FaultCause) (h : s.err = false) :
    raiseFault q s = { s with err := true, cause := q.code } := by
  simp [raiseFault, recordFault, h]

/-- The state with ERR and CAUSE at the given values, whatever fault was recorded before. -/
def State.setFault (s : State) (e : Bool) (c : BitVec 2) : State :=
  { s with err := e, cause := c }

/-- ERR and CAUSE take no part in a COMPRESS. -/
theorem compressOp_setFault (s : State) (e : Bool) (c : BitVec 2) :
    compressOp (s.setFault e c) = (compressOp s).setFault e c := by
  simp only [compressOp, accumOp]
  rfl

/-- ERR and CAUSE take no part in a PUSH. -/
theorem pushByte_setFault (v : Byte) (s : State) (e : Bool) (c : BitVec 2) :
    pushByte v (s.setFault e c) = (pushByte v s).setFault e c := by
  by_cases h : s.blen = 63
  · rw [pushByte_of_eq s v h, pushByte_of_eq (s.setFault e c) v h]
    exact congrArg (·.setBlen 0) (compressOp_setFault (s.setBufByte 63 v) e c)
  · rw [pushByte_of_ne s v h, pushByte_of_ne (s.setFault e c) v h]
    rfl

theorem pushBytes_setFault (vs : List Byte) (s : State) (e : Bool) (c : BitVec 2) :
    pushBytes vs (s.setFault e c) = (pushBytes vs s).setFault e c := by
  induction vs generalizing s with
  | nil => rfl
  | cons v vs ih => rw [pushBytes_cons, pushByte_setFault, ih, pushBytes_cons]

theorem padSeq_setFault (s : State) (e : Bool) (c : BitVec 2) :
    padSeq (s.setFault e c) = (padSeq s).setFault e c := by
  rw [padSeq_eq, padSeq_eq, ← pushBytes_setFault]
  rfl

theorem raiseFault_eq_setFault (q : FaultCause) (s : State) :
    raiseFault q s = s.setFault true (if s.err then s.cause else q.code) := by
  apply State.eq_of_fields <;> simp [State.setFault, raiseFault_cause]

/-- Whatever fault is recorded, a command does the same to every register but ERR and CAUSE. -/
theorem exec_setFault (i : Instr) (s : State) (e : Bool) (c : BitVec 2) :
    ∃ t e' c', exec i s = .next t ∧ exec i (s.setFault e c) = .next (t.setFault e' c') := by
  rcases exec_cases s i with ⟨rfl, h⟩ | ⟨rfl, h⟩ | ⟨tag, n, rfl, h⟩ | ⟨b, rfl, hp, h⟩ | ⟨rfl, hp, h⟩ | ⟨hi, hp, h⟩
  · exact ⟨_, e, c, h, rfl⟩
  · exact ⟨_, e, c, h, rfl⟩
  · exact ⟨_, e, c, h, rfl⟩
  · refine ⟨_, e, c, h, ?_⟩
    rw [exec_absorb_of_active (s := s.setFault e c) b hp, ← pushByte_setFault]
    rfl
  · refine ⟨_, e, c, h, ?_⟩
    rw [exec_finalize_of_active (s := s.setFault e c) hp, padSeq_setFault]
    rfl
  · refine ⟨_, true, if e then c else FaultCause.useAfterFinalize.code, h, ?_⟩
    rw [exec_useAfterFinalize (s := s.setFault e c) hi hp, raiseFault_eq_setFault, raiseFault_eq_setFault]
    rfl

end Sys2Proof.Machine

/-- Settles O5: each event and each command has an equation that answers a next state. -/
theorem everyStepAnswersANextState : Obligations.EveryStepAnswersANextState :=
  ⟨exists_step_eq_next, exists_exec_eq_next⟩

/-- Settles O21: the decoder calls the word illegal, and the step takes the fault of cause 2. -/
theorem reservedOpcodeRaisesIllegalCommand : Obligations.ReservedOpcodeRaisesIllegalCommand := by
  intro s cw es hhost hop
  rw [← cw.op_toNat] at hop
  exact ⟨_, step_of_illegal hhost (decode_of_op_reserved hop), faultTaken_raiseFault .illegalCommand _⟩

/-- Settles O22: a step that left cause code 1 took this fault, and the two commands take it in phase DONE. -/
theorem useAfterFinalizeIsRaisedByTheseAlone : Obligations.UseAfterFinalizeIsRaisedByTheseAlone := by
  intro s t herr hstep
  refine ⟨⟨fun ⟨hterr, htcause⟩ => ?_, fun ⟨hp, cw, es, i, hhost, hd, hi⟩ => ?_⟩, fun ⟨hterr, htcause⟩ => ?_⟩
  · obtain ⟨cw, es, i, hhost, hd, hi, hp, -⟩ := step_inv_of_useAfterFinalize herr hstep hterr htcause
    exact ⟨hp, cw, es, i, hhost, hd, hi⟩
  · rw [step_of_command hhost hd, exec_useAfterFinalize (s := { s with host := es }) hi hp] at hstep
    cases hstep
    simp [raiseFault_cause, herr, FaultCause.code]
  · obtain ⟨cw, es, i, -, -, -, -, rfl⟩ := step_inv_of_useAfterFinalize herr hstep hterr htcause
    rw [raiseFault_host]
    exact faultTaken_raiseFault .useAfterFinalize { s with host := es }

/-- Settles O23: the two cases of fault entry, and `exec_setFault` for the commands behind a fault. -/
theorem faultEntryIsPrecise : Obligations.FaultEntryIsPrecise := by
  refine ⟨fun q s => ⟨raiseFault_of_no_err q, raiseFault_of_err q⟩, rfl, rfl, fun i s e c => ?_⟩
  obtain ⟨t, e', c', h, h'⟩ := exec_setFault i s e c
  exact ⟨t, t.setFault e' c', h, h', rfl, rfl, rfl, rfl, rfl⟩

end

section
/-! The statement of spec/70_reset_and_hazards.md: reset gives every register its value of R38, and nothing else clears a
recorded fault (R195). -/

open Sys2Proof Sys2Proof.Machine

/-- Settles O2: the step of a reset event answers `resetEngine`; and every other step keeps a recorded fault, which is
the statement of R182 read backwards. -/
theorem resetIsTheOnlyEventThatClearsErr : Obligations.ResetIsTheOnlyEventThatClearsErr := by
  obtain ⟨hkept, -⟩ := errAndCauseStayUntilReset
  constructor
  · intro s es hhost
    exact ⟨_, step_of_reset hhost, rfl, rfl, rfl, rfl, rfl, rfl, rfl⟩
  · intro s t hstep herr hchange
    by_contra hreset
    obtain ⟨hterr, htcause⟩ := hkept s t hstep herr fun es hhost => hreset ⟨es, hhost⟩
    rcases hchange with hcleared | hchanged
    · simp [hterr] at hcleared
    · exact hchanged htcause

end
